-- ==== Sys2Proof/Word.lean ====
section
/-! DEFINITION. The word types of CORE: a byte, a 16-bit tag-memory word, a 32-bit register view and a 64-bit command word
(00_scope.md rule R12, 30_encoding.md rule R80). Bit 0 of a value is its least significant bit. -/

namespace Sys2Proof

/-- A byte: one mask byte, one byte of the buffer's byte view, one CRC input byte. -/
abbrev Byte := BitVec 8

/-- A 16-bit word of tag memory (00_scope.md glossary, "word"), and the width of the sensor codes (R91). -/
abbrev Word16 := BitVec 16

/-- A 32-bit value: the data width of the `REG` space (R60) and of the operands `value` and `pointer` (R97). -/
abbrev Word32 := BitVec 32

/-- A command word: every command is one 64-bit word (R80). -/
abbrev CmdWord := BitVec 64

end Sys2Proof
end

