-- ==== Sys2Proof/Syntax.lean ====
section
/-! DEFINITION. The seventeen commands of MSCORE-1 (30_encoding.md rule R93, spec/opcode_table.json), one constructor per
row. Every operand is an unsigned integer of its field's width (R97), so an operand that does not fit its field cannot be
written; a value that fits its field and is out of the command's own range (width 0, target 7) is a legal command word that the
command itself refuses with an error response (R93, last sentence before the table). -/

namespace Sys2Proof

/-- A decoded command. Operands stand in the order of their fields, most significant first (R81 to R92). -/
inductive Instr where
  /-- `NOP` (R250). -/
  | nop
  /-- `RESET` (R251). -/
  | reset
  /-- `CLRERR` (R252). -/
  | clrerr
  /-- `BB_CLEAR` (R120). -/
  | bbClear
  /-- `BB_APPEND` (R121), format `F` (R82). -/
  | bbAppend (width : BitVec 6) (value : Word32)
  /-- `BB_EBV` (R122), format `E` (R83). -/
  | bbEbv (value : Word32)
  /-- `MASK_LD` (R140), format `M` (R84). -/
  | maskLd (idx : BitVec 5) (byte : Byte)
  /-- `SEL_BUILD` (R141), format `S` (R85). -/
  | selBuild (target action bank : BitVec 4) (masklen : BitVec 12) (pointer : Word32)
  /-- `CRC_INIT` (R160). -/
  | crcInit
  /-- `CRC_BYTE` (R161), format `B` (R86). -/
  | crcByte (byte : Byte)
  /-- `CRC_WORD` (R162), format `W` (R87). -/
  | crcWord (word : Word16)
  /-- `CAL_LDW` (R180), format `LW` (R88). -/
  | calLdw (idx : BitVec 2) (word : Word16)
  /-- `CAL_LDB` (R181), format `LB` (R89). -/
  | calLdb (idx : BitVec 3) (byte : Byte)
  /-- `CAL_DECODE` (R183), format `V` (R90). -/
  | calDecode (variant : BitVec 2)
  /-- `CAL_CLEAR` (R182). -/
  | calClear
  /-- `CLASSIFY` (R220), format `C` (R91). -/
  | classify (moist ocrssi temp : Word16)
  /-- `CLS_BACK` (R224), format `K` (R92). -/
  | clsBack (n : BitVec 1) (ocrssi code : Word16)
deriving DecidableEq, Repr

end Sys2Proof
end

