-- ==== Sys2Proof/WellFormed.lean ====
section
/-! DEFINITION. Source lines of the assembler syntax (30_encoding.md rules R98 and R99) and the checks a line must pass.
An `Instr` needs no check: its operands have the widths of their fields, so every `Instr` is well-formed by its type. What can be
ill-formed is what a host programmer writes: numbers of any size, and pseudo-instructions with lists of bytes. `assemble`
(Decode.lean) turns a well-formed line into commands and refuses every other. -/

namespace Sys2Proof

/-- The five symbolic target names (R98, R105). -/
inductive Target where
  | s0 | s1 | s2 | s3 | sl
deriving DecidableEq, Repr

/-- The numbers the symbolic target names stand for: `S0` to `S3` are 0 to 3, `SL` is 4 (R98, R105). -/
def Target.code : Target → Nat
  | .s0 => 0
  | .s1 => 1
  | .s2 => 2
  | .s3 => 3
  | .sl => 4

/-- The two symbolic variant names (R98). -/
inductive Variant where
  | a | b
deriving DecidableEq, Repr

/-- The numbers the symbolic variant names stand for (R98). -/
def Variant.code : Variant → Nat
  | .a => 0
  | .b => 1

/-- One source line: a command with its operands in the order of R98's table, or one of the six pseudo-instructions of R99.
Operands are numbers as written. -/
inductive SrcLine where
  | nop
  | reset
  | clrerr
  | bbClear
  | bbAppend (value width : Nat)
  | bbEbv (value : Nat)
  | maskLd (idx byte : Nat)
  | selBuild (target action bank pointer masklen : Nat)
  | crcInit
  | crcByte (byte : Nat)
  | crcWord (word : Nat)
  | calLdw (idx word : Nat)
  | calLdb (idx byte : Nat)
  | calDecode (variant : Nat)
  | calClear
  | classify (moist ocrssi temp : Nat)
  | clsBack (n code ocrssi : Nat)
  /-- `MASK_SET b0, …` (R99): at most 32 bytes. -/
  | maskSet (bytes : List Nat)
  /-- `SELECT target, action, bank, pointer, masklen, [b0, …]` (R99): exactly `ceil(masklen/8)` bytes. -/
  | select (target action bank pointer masklen : Nat) (bytes : List Nat)
  /-- `CRC16 b0, …` (R99). -/
  | crc16 (bytes : List Nat)
  /-- `CAL_LOAD w0, w1, w2, w3` (R99). -/
  | calLoad (w0 w1 w2 w3 : Nat)
  /-- `CAL_LOADB b0, …, b7` (R99): exactly 8 bytes. -/
  | calLoadB (bytes : List Nat)
  /-- `DECODE variant, w0, w1, w2, w3` (R99). -/
  | decode (variant w0 w1 w2 w3 : Nat)
deriving DecidableEq, Repr

/-- A number fits a field of `w` bits. -/
abbrev fits (w n : Nat) : Bool := decide (n < 2 ^ w)

/-- Every byte of a list fits 8 bits. -/
abbrev bytesFit (bs : List Nat) : Bool := bs.all (fits 8)

/-- The number of whole mask bytes a mask of `masklen` bits takes: `ceil(masklen/8)` (R99, R142). -/
def maskByteCount (masklen : Nat) : Nat := (masklen + 7) / 8

/-- The operands of `SEL_BUILD` fit the fields of format `S` (R85). -/
def selFieldsFit (target action bank pointer masklen : Nat) : Bool :=
  fits 4 target && fits 4 action && fits 4 bank && fits 12 masklen && fits 32 pointer

/-- The checks of a source line: every operand fits its field (R97), and a pseudo-instruction has the number of bytes its
expansion asks for (R99). -/
def SrcLine.wellFormed : SrcLine → Bool
  | .nop | .reset | .clrerr | .bbClear | .crcInit | .calClear => true
  | .bbAppend value width => fits 32 value && fits 6 width
  | .bbEbv value => fits 32 value
  | .maskLd idx byte => fits 5 idx && fits 8 byte
  | .selBuild target action bank pointer masklen => selFieldsFit target action bank pointer masklen
  | .crcByte byte => fits 8 byte
  | .crcWord word => fits 16 word
  | .calLdw idx word => fits 2 idx && fits 16 word
  | .calLdb idx byte => fits 3 idx && fits 8 byte
  | .calDecode variant => fits 2 variant
  | .classify moist ocrssi temp => fits 16 moist && fits 16 ocrssi && fits 16 temp
  | .clsBack n code ocrssi => fits 1 n && fits 16 code && fits 16 ocrssi
  | .maskSet bytes => bytesFit bytes && decide (bytes.length ≤ 32)
  | .select target action bank pointer masklen bytes =>
      selFieldsFit target action bank pointer masklen && bytesFit bytes &&
        decide (bytes.length = maskByteCount masklen) && decide (bytes.length ≤ 32)
  | .crc16 bytes => bytesFit bytes
  | .calLoad w0 w1 w2 w3 => fits 16 w0 && fits 16 w1 && fits 16 w2 && fits 16 w3
  | .calLoadB bytes => bytesFit bytes && decide (bytes.length = 8)
  | .decode variant w0 w1 w2 w3 => fits 2 variant && fits 16 w0 && fits 16 w1 && fits 16 w2 && fits 16 w3

end Sys2Proof
end

