-- ==== Sys2Proof/Decode.lean ====
section
/-! DEFINITION. Decoding a command word, total on all 2^64 words (30_encoding.md rules R80 to R97), the opcode table of R93 as
data, the encoder written from the format tables R81 to R92, and the assembler of R98 and R99, from text to commands. -/

namespace Sys2Proof

/-- Why a word spells no command (R94, R95). -/
inductive Illegal where
  /-- The opcode is one of the 239 not listed in R93. -/
  | unassignedOpcode (opcode : Byte)
  /-- The opcode is listed and a reserved bit of its format is 1 (R95). -/
  | reservedBitSet (opcode : Byte)
deriving DecidableEq, Repr

/-- What decoding a word gives: a command, or the word is an illegal command (R94). -/
inductive Decoded where
  | instr (i : Instr)
  | illegal (why : Illegal)
deriving DecidableEq, Repr

/-- The opcode of a command word, bits 63:56 (R80). -/
def opcodeOf (w : CmdWord) : Byte := w.extractLsb 63 56

/-- The command `i`, if the reserved bits `r` of its format are all 0; otherwise the word is illegal (R95). -/
def ifReservedZero {n : Nat} (w : CmdWord) (r : BitVec n) (i : Instr) : Decoded :=
  if r = 0#n then .instr i else .illegal (.reservedBitSet (opcodeOf w))

/-- Decoding (R93, R94): the opcode selects the format, the format's fields are read as they stand (R97), and a 1 in a reserved
bit makes the word illegal (R95). -/
def decode (w : CmdWord) : Decoded :=
  match (opcodeOf w).toNat with
  | 0x00 => ifReservedZero w (w.extractLsb 55 0) .nop
  | 0x01 => ifReservedZero w (w.extractLsb 55 0) .reset
  | 0x02 => ifReservedZero w (w.extractLsb 55 0) .clrerr
  | 0x10 => ifReservedZero w (w.extractLsb 55 0) .bbClear
  | 0x11 => ifReservedZero w (w.extractLsb 49 32) (.bbAppend (w.extractLsb 55 50) (w.extractLsb 31 0))
  | 0x12 => ifReservedZero w (w.extractLsb 55 32) (.bbEbv (w.extractLsb 31 0))
  | 0x18 => ifReservedZero w (w.extractLsb 55 13) (.maskLd (w.extractLsb 12 8) (w.extractLsb 7 0))
  | 0x19 => .instr (.selBuild (w.extractLsb 55 52) (w.extractLsb 51 48) (w.extractLsb 47 44) (w.extractLsb 43 32)
      (w.extractLsb 31 0))
  | 0x20 => ifReservedZero w (w.extractLsb 55 0) .crcInit
  | 0x21 => ifReservedZero w (w.extractLsb 55 8) (.crcByte (w.extractLsb 7 0))
  | 0x22 => ifReservedZero w (w.extractLsb 55 16) (.crcWord (w.extractLsb 15 0))
  | 0x30 => ifReservedZero w (w.extractLsb 55 18) (.calLdw (w.extractLsb 17 16) (w.extractLsb 15 0))
  | 0x31 => ifReservedZero w (w.extractLsb 55 11) (.calLdb (w.extractLsb 10 8) (w.extractLsb 7 0))
  | 0x32 => ifReservedZero w (w.extractLsb 55 2) (.calDecode (w.extractLsb 1 0))
  | 0x33 => ifReservedZero w (w.extractLsb 55 0) .calClear
  | 0x40 => ifReservedZero w (w.extractLsb 55 48) (.classify (w.extractLsb 47 32) (w.extractLsb 31 16) (w.extractLsb 15 0))
  | 0x41 => ifReservedZero w (w.extractLsb 55 33) (.clsBack (w.extractLsb 32 32) (w.extractLsb 31 16) (w.extractLsb 15 0))
  | _ => .illegal (.unassignedOpcode (opcodeOf w))

/-! ### The opcode table -/

/-- A row of the opcode table (R93): a word `w` spells the command when `w AND mask = pattern`. -/
structure OpcodeRow where
  mnemonic : String
  pattern : CmdWord
  mask : CmdWord
deriving DecidableEq, Repr

/-- The word matches the row (R93). -/
abbrev OpcodeRow.matches (r : OpcodeRow) (w : CmdWord) : Prop := w &&& r.mask = r.pattern

/-- The table of R93, in the order of its rows. `decode` is written from the formats, not from this table; that the two agree is
a statement about the model. -/
def opcodeTable : List OpcodeRow :=
  [ ⟨"BB_CLEAR", 0x1000000000000000, 0xFFFFFFFFFFFFFFFF⟩,
    ⟨"BB_APPEND", 0x1100000000000000, 0xFF03FFFF00000000⟩,
    ⟨"BB_EBV", 0x1200000000000000, 0xFFFFFFFF00000000⟩,
    ⟨"MASK_LD", 0x1800000000000000, 0xFFFFFFFFFFFFE000⟩,
    ⟨"SEL_BUILD", 0x1900000000000000, 0xFF00000000000000⟩,
    ⟨"CRC_INIT", 0x2000000000000000, 0xFFFFFFFFFFFFFFFF⟩,
    ⟨"CRC_BYTE", 0x2100000000000000, 0xFFFFFFFFFFFFFF00⟩,
    ⟨"CRC_WORD", 0x2200000000000000, 0xFFFFFFFFFFFF0000⟩,
    ⟨"CAL_LDW", 0x3000000000000000, 0xFFFFFFFFFFFC0000⟩,
    ⟨"CAL_LDB", 0x3100000000000000, 0xFFFFFFFFFFFFF800⟩,
    ⟨"CAL_DECODE", 0x3200000000000000, 0xFFFFFFFFFFFFFFFC⟩,
    ⟨"CAL_CLEAR", 0x3300000000000000, 0xFFFFFFFFFFFFFFFF⟩,
    ⟨"CLASSIFY", 0x4000000000000000, 0xFFFF000000000000⟩,
    ⟨"CLS_BACK", 0x4100000000000000, 0xFFFFFFFE00000000⟩,
    ⟨"NOP", 0x0000000000000000, 0xFFFFFFFFFFFFFFFF⟩,
    ⟨"RESET", 0x0100000000000000, 0xFFFFFFFFFFFFFFFF⟩,
    ⟨"CLRERR", 0x0200000000000000, 0xFFFFFFFFFFFFFFFF⟩ ]

/-- The mnemonic of a command (R93). -/
def Instr.mnemonic : Instr → String
  | .nop => "NOP"
  | .reset => "RESET"
  | .clrerr => "CLRERR"
  | .bbClear => "BB_CLEAR"
  | .bbAppend _ _ => "BB_APPEND"
  | .bbEbv _ => "BB_EBV"
  | .maskLd _ _ => "MASK_LD"
  | .selBuild _ _ _ _ _ => "SEL_BUILD"
  | .crcInit => "CRC_INIT"
  | .crcByte _ => "CRC_BYTE"
  | .crcWord _ => "CRC_WORD"
  | .calLdw _ _ => "CAL_LDW"
  | .calLdb _ _ => "CAL_LDB"
  | .calDecode _ => "CAL_DECODE"
  | .calClear => "CAL_CLEAR"
  | .classify _ _ _ => "CLASSIFY"
  | .clsBack _ _ _ => "CLS_BACK"

/-! ### The encoder -/

/-- The command word of a command: the opcode, then the fields and the reserved zeros of its format, most significant first
(R81 to R93). -/
def encode : Instr → CmdWord
  | .nop => 0x00#8 ++ 0#56
  | .reset => 0x01#8 ++ 0#56
  | .clrerr => 0x02#8 ++ 0#56
  | .bbClear => 0x10#8 ++ 0#56
  | .bbAppend width value => 0x11#8 ++ width ++ 0#18 ++ value
  | .bbEbv value => 0x12#8 ++ 0#24 ++ value
  | .maskLd idx byte => 0x18#8 ++ 0#43 ++ idx ++ byte
  | .selBuild target action bank masklen pointer => 0x19#8 ++ target ++ action ++ bank ++ masklen ++ pointer
  | .crcInit => 0x20#8 ++ 0#56
  | .crcByte byte => 0x21#8 ++ 0#48 ++ byte
  | .crcWord word => 0x22#8 ++ 0#40 ++ word
  | .calLdw idx word => 0x30#8 ++ 0#38 ++ idx ++ word
  | .calLdb idx byte => 0x31#8 ++ 0#45 ++ idx ++ byte
  | .calDecode variant => 0x32#8 ++ 0#54 ++ variant
  | .calClear => 0x33#8 ++ 0#56
  | .classify moist ocrssi temp => 0x40#8 ++ 0#8 ++ moist ++ ocrssi ++ temp
  | .clsBack n ocrssi code => 0x41#8 ++ 0#23 ++ n ++ ocrssi ++ code

/-- The command the decoder reads from a table row's word. A command is one 64-bit word presented whole (R80, R76), so there are
no further words and no byte order to choose; a word given with fewer bits has zeros above them. -/
def decodeTableWord (nbits w : Nat) : Option Instr :=
  match decode (BitVec.ofNat 64 (w % 2 ^ nbits)) with
  | .instr i => some i
  | .illegal _ => none

/-! ### The assembler -/

/-- `MASK_LD i, bᵢ` for the bytes of a list, counting from index `i` (R99, `MASK_SET`). -/
def maskLoads : Nat → List Nat → List Instr
  | _, [] => []
  | i, b :: bs => .maskLd (BitVec.ofNat 5 i) (BitVec.ofNat 8 b) :: maskLoads (i + 1) bs

/-- `CAL_LDB i, bᵢ` for the bytes of a list, counting from index `i` (R99, `CAL_LOADB`). -/
def calByteLoads : Nat → List Nat → List Instr
  | _, [] => []
  | i, b :: bs => .calLdb (BitVec.ofNat 3 i) (BitVec.ofNat 8 b) :: calByteLoads (i + 1) bs

/-- The four `CAL_LDW` of `CAL_LOAD` (R99). -/
def calWordLoads (w0 w1 w2 w3 : Nat) : List Instr :=
  [ .calLdw 0 (BitVec.ofNat 16 w0), .calLdw 1 (BitVec.ofNat 16 w1),
    .calLdw 2 (BitVec.ofNat 16 w2), .calLdw 3 (BitVec.ofNat 16 w3) ]

/-- `SEL_BUILD` from numbers in the source's argument order (R98). -/
def selBuildOf (target action bank pointer masklen : Nat) : Instr :=
  .selBuild (BitVec.ofNat 4 target) (BitVec.ofNat 4 action) (BitVec.ofNat 4 bank) (BitVec.ofNat 12 masklen)
    (BitVec.ofNat 32 pointer)

/-- The commands a well-formed source line stands for: one for a command (R98), the fixed expansion for a pseudo-instruction
(R99). -/
def SrcLine.commands : SrcLine → List Instr
  | .nop => [.nop]
  | .reset => [.reset]
  | .clrerr => [.clrerr]
  | .bbClear => [.bbClear]
  | .bbAppend value width => [.bbAppend (BitVec.ofNat 6 width) (BitVec.ofNat 32 value)]
  | .bbEbv value => [.bbEbv (BitVec.ofNat 32 value)]
  | .maskLd idx byte => [.maskLd (BitVec.ofNat 5 idx) (BitVec.ofNat 8 byte)]
  | .selBuild target action bank pointer masklen => [selBuildOf target action bank pointer masklen]
  | .crcInit => [.crcInit]
  | .crcByte byte => [.crcByte (BitVec.ofNat 8 byte)]
  | .crcWord word => [.crcWord (BitVec.ofNat 16 word)]
  | .calLdw idx word => [.calLdw (BitVec.ofNat 2 idx) (BitVec.ofNat 16 word)]
  | .calLdb idx byte => [.calLdb (BitVec.ofNat 3 idx) (BitVec.ofNat 8 byte)]
  | .calDecode variant => [.calDecode (BitVec.ofNat 2 variant)]
  | .calClear => [.calClear]
  | .classify moist ocrssi temp => [.classify (BitVec.ofNat 16 moist) (BitVec.ofNat 16 ocrssi) (BitVec.ofNat 16 temp)]
  | .clsBack n code ocrssi => [.clsBack (BitVec.ofNat 1 n) (BitVec.ofNat 16 ocrssi) (BitVec.ofNat 16 code)]
  | .maskSet bytes => maskLoads 0 bytes
  | .select target action bank pointer masklen bytes =>
      maskLoads 0 bytes ++ [selBuildOf target action bank pointer masklen]
  | .crc16 bytes => .crcInit :: bytes.map fun b => .crcByte (BitVec.ofNat 8 b)
  | .calLoad w0 w1 w2 w3 => calWordLoads w0 w1 w2 w3
  | .calLoadB bytes => calByteLoads 0 bytes
  | .decode variant w0 w1 w2 w3 => calWordLoads w0 w1 w2 w3 ++ [.calDecode (BitVec.ofNat 2 variant)]

/-- Assembling a source line: its commands, or nothing for a line that is not well-formed. -/
def assemble (l : SrcLine) : Option (List Instr) :=
  if l.wellFormed then some l.commands else none

/-! ### Assembler text

A line is a mnemonic, then its operands separated by commas; numbers are decimal, `0x` hexadecimal or `0b` binary (R98). That
mnemonics and names are written in capitals, and that spaces may stand between tokens, is the model's choice (assumption log 6). -/

/-- A token of a line. -/
inductive Token where
  | word (cs : List Char)
  | comma
  | lbracket
  | rbracket
deriving DecidableEq, Repr

/-- The tokens `ts` after the word whose characters were read, last first, in `acc`. -/
def endWord (acc : List Char) (ts : List Token) : List Token :=
  if acc.isEmpty then ts else .word acc.reverse :: ts

/-- The tokens of a line; `acc` holds the characters of the word being read, last first. -/
def tokens (acc : List Char) : List Char → List Token
  | [] => endWord acc []
  | c :: cs =>
    if c = ' ' then endWord acc (tokens [] cs)
    else if c = ',' then endWord acc (.comma :: tokens [] cs)
    else if c = '[' then endWord acc (.lbracket :: tokens [] cs)
    else if c = ']' then endWord acc (.rbracket :: tokens [] cs)
    else tokens (c :: acc) cs

/-- The value of a digit. -/
def digitOf (c : Char) : Option Nat :=
  let n := c.toNat
  if 48 ≤ n ∧ n ≤ 57 then some (n - 48)
  else if 97 ≤ n ∧ n ≤ 102 then some (n - 87)
  else if 65 ≤ n ∧ n ≤ 70 then some (n - 55)
  else none

/-- The value of digits in a base, after the value `acc` of the digits before them. -/
def digitsIn (base acc : Nat) : List Char → Option Nat
  | [] => some acc
  | c :: cs =>
    match digitOf c with
    | some d => if d < base then digitsIn base (base * acc + d) cs else none
    | none => none

/-- A number: decimal, `0x` hexadecimal or `0b` binary, with at least one digit (R98). -/
def numeral : List Char → Option Nat
  | [] => none
  | ['0', 'x'] => none
  | ['0', 'b'] => none
  | '0' :: 'x' :: cs => digitsIn 16 0 cs
  | '0' :: 'b' :: cs => digitsIn 2 0 cs
  | cs => digitsIn 10 0 cs

/-- A target operand: a number or one of the names `S0` to `S3`, `SL` (R98, R105). -/
def targetOf (cs : List Char) : Option Nat :=
  if cs = ['S', '0'] then some Target.s0.code
  else if cs = ['S', '1'] then some Target.s1.code
  else if cs = ['S', '2'] then some Target.s2.code
  else if cs = ['S', '3'] then some Target.s3.code
  else if cs = ['S', 'L'] then some Target.sl.code
  else numeral cs

/-- A variant operand: a number or one of the names `A`, `B` (R98). -/
def variantOf (cs : List Char) : Option Nat :=
  if cs = ['A'] then some Variant.a.code else if cs = ['B'] then some Variant.b.code else numeral cs

/-- Words separated by commas. -/
def commaWords : List Token → Option (List (List Char))
  | [.word w] => some [w]
  | .word w :: .comma :: ts => (commaWords ts).map (w :: ·)
  | _ => none

/-- The operands after a mnemonic; none at all is an empty list. -/
def operandWords (ts : List Token) : Option (List (List Char)) := if ts.isEmpty then some [] else commaWords ts

/-- The operands of `SELECT`: words, each followed by a comma, and then a list in brackets (R99). -/
def bracketOperands : List Token → Option (List (List Char) × List (List Char))
  | .word w :: .comma :: ts => (bracketOperands ts).map fun p => (w :: p.1, p.2)
  | .lbracket :: ts =>
    if ts.getLast? = some .rbracket then (operandWords ts.dropLast).map fun ws => ([], ws) else none
  | _ => none

/-- Reading every word of a list as a number. -/
def numerals : List (List Char) → Option (List Nat)
  | [] => some []
  | w :: ws =>
    match numeral w, numerals ws with
    | some n, some ns => some (n :: ns)
    | _, _ => none

/-- A line whose operands are all numbers, from its mnemonic and the operands in the order of R98 and R99. -/
def numericLine (mnemonic : String) (ns : List Nat) : Option SrcLine :=
  match ns with
  | [] =>
    if mnemonic = "NOP" then some .nop
    else if mnemonic = "RESET" then some .reset
    else if mnemonic = "CLRERR" then some .clrerr
    else if mnemonic = "BB_CLEAR" then some .bbClear
    else if mnemonic = "CRC_INIT" then some .crcInit
    else if mnemonic = "CAL_CLEAR" then some .calClear
    else listLine mnemonic []
  | [a] =>
    if mnemonic = "BB_EBV" then some (.bbEbv a)
    else if mnemonic = "CRC_BYTE" then some (.crcByte a)
    else if mnemonic = "CRC_WORD" then some (.crcWord a)
    else if mnemonic = "CAL_DECODE" then some (.calDecode a)
    else listLine mnemonic [a]
  | [a, b] =>
    if mnemonic = "BB_APPEND" then some (.bbAppend a b)
    else if mnemonic = "MASK_LD" then some (.maskLd a b)
    else if mnemonic = "CAL_LDW" then some (.calLdw a b)
    else if mnemonic = "CAL_LDB" then some (.calLdb a b)
    else listLine mnemonic [a, b]
  | [a, b, c] =>
    if mnemonic = "CLASSIFY" then some (.classify a b c)
    else if mnemonic = "CLS_BACK" then some (.clsBack a b c)
    else listLine mnemonic [a, b, c]
  | [a, b, c, d] => if mnemonic = "CAL_LOAD" then some (.calLoad a b c d) else listLine mnemonic [a, b, c, d]
  | [a, b, c, d, e] =>
    if mnemonic = "SEL_BUILD" then some (.selBuild a b c d e)
    else if mnemonic = "DECODE" then some (.decode a b c d e)
    else listLine mnemonic [a, b, c, d, e]
  | ns => listLine mnemonic ns
where
  /-- A pseudo-instruction whose operands are a list of bytes (R99). -/
  listLine (mnemonic : String) (ns : List Nat) : Option SrcLine :=
    if mnemonic = "MASK_SET" then some (.maskSet ns)
    else if mnemonic = "CRC16" then some (.crc16 ns)
    else if mnemonic = "CAL_LOADB" then some (.calLoadB ns)
    else none

/-- Reading the first operand as a target or a variant name where the mnemonic takes one, and the others as numbers (R98). -/
def operandNumbers (mnemonic : String) : List (List Char) → Option (List Nat)
  | [] => some []
  | w :: ws =>
    let first :=
      if mnemonic = "SEL_BUILD" ∨ mnemonic = "SELECT" then targetOf w
      else if mnemonic = "CAL_DECODE" ∨ mnemonic = "DECODE" then variantOf w
      else numeral w
    match first, numerals ws with
    | some n, some ns => some (n :: ns)
    | _, _ => none

/-- The `SELECT` pseudo-instruction from its operands and its list of bytes (R99). -/
def selectLine (ns bytes : List Nat) : Option SrcLine :=
  match ns with
  | [target, action, bank, pointer, masklen] => some (.select target action bank pointer masklen bytes)
  | _ => none

/-- The line a list of tokens spells, or nothing. -/
def lineOfTokens : List Token → Option SrcLine
  | .word m :: ts =>
    let mnemonic := String.ofList m
    if mnemonic = "SELECT" then
      match bracketOperands ts with
      | some (ws, bs) =>
        match operandNumbers mnemonic ws, numerals bs with
        | some ns, some bytes => selectLine ns bytes
        | _, _ => none
      | none => none
    else
      match operandWords ts with
      | some ws =>
        match operandNumbers mnemonic ws with
        | some ns => numericLine mnemonic ns
        | none => none
      | none => none
  | _ => none

/-- The commands a line of text stands for, or nothing where it spells no line or the line is not well-formed (R98, R99). -/
def assembleText (text : List Char) : Option (List Instr) :=
  match lineOfTokens (tokens [] text) with
  | some l => assemble l
  | none => none

end Sys2Proof
end

