-- ==== Sys2Proof/Config.lean ====
section
/-! DEFINITION. The implementation parameters of 00_scope.md rule R7, and the free values. The four parameters the spec marks OPEN
(`BUF_CAP_BITS`, `EBV_VALUE_BITS`, `SELECT_CMD_CODE`, `VARB_WORD_ORDER`) are the fields of `Build`, an argument of the step (R44,
assumption log 1); every other parameter is a constant. A free value is an opaque constant: no proof can see what it is. -/

namespace Sys2Proof.Config

/-! ### The bitfield packer -/

/-- `FIELD_MIN_WIDTH`: the least legal width of a fixed-width field (R7, R121). -/
abbrev fieldMinWidth : Nat := 1
/-- `FIELD_MAX_WIDTH`: the greatest legal width of a fixed-width field (R7, R121). -/
abbrev fieldMaxWidth : Nat := 32
/-- `EBV_GROUP_BITS`: one EBV group is 7 payload bits and 1 flag (R7, R101). -/
abbrev ebvGroupBits : Nat := 8

/-! ### The Select builder -/

/-- `MASK_BYTES`, the size of the mask register file (R7, R24). -/
abbrev maskBytes : Nat := 32
/-- `SEL_TRUNCATE`, the truncate flag that ends a Select frame: "always 0 in this design" (R7, R104). -/
def selTruncate : BitVec 1 := 0#1

/-! ### The CRC-16 validator -/

/-- `CRC_POLY` (R7, R163). -/
def crcPoly : Word16 := 0x1021#16
/-- `CRC_INIT` (R7, R160, R164). -/
def crcInit : Word16 := 0xFFFF#16
/-- `CRC_XOROUT` (R7, R164). -/
def crcXorOut : Word16 := 0xFFFF#16

/-! ### The calibration decoder -/

/-- `VARB_WORD_ORDER`: which word of a Variant B group holds the code (R7, R110). -/
inductive WordOrder where
  /-- The code word comes first: words 0 and 2 hold the codes. -/
  | codeFirst
  /-- The format/parity/temperature word comes first: words 1 and 3 hold the codes. -/
  | fptFirst
deriving DecidableEq, Repr

/-- The denominator of the temperature scale 1/10, the same for both variants (`VARA_SCALE`, `VARB_SCALE`, R7). -/
def tempScaleDen : Int := 10
/-- `VARA_BIAS`, in degrees Celsius (R7, R187). -/
def varaBias : Int := -80
/-- `VARB_BIAS`, in degrees Celsius (R7, R191). -/
def varbBias : Int := -60
/-- Variant A uses its codes unscaled (R187). -/
def varaCodeScaleDen : Int := 1
/-- `VARB_CODE_SCALE` = 1/16, as its denominator (R7, R191). -/
def varbCodeScaleDen : Int := 16

/-! ### The status thresholder (constants of CORE, R225) -/

/-- `OCRSSI_MIN` (R225). -/
def ocrssiMin : Nat := 5
/-- `OCRSSI_MAX_MOIST` (R225). -/
def ocrssiMaxMoist : Nat := 21
/-- `OCRSSI_MAX_TEMP`, also the bound of the backport channels (R225). -/
def ocrssiMaxTemp : Nat := 18
/-- `TEMP_CODE_MIN` (R225). -/
def tempCodeMin : Nat := 1000
/-- `TEMP_CODE_MAX` (R225). -/
def tempCodeMax : Nat := 3500

/-! ### The OPEN parameters -/

end Sys2Proof.Config

namespace Sys2Proof

/-- A build of CORE: the parameters the spec leaves OPEN (R7, D5, D9, D10, D19, entries U7 and U8). "Not state, and therefore
parameters of a model's step function" (R44). -/
structure Build where
  /-- `BUF_CAP_BITS`, the capacity of the bit buffer in bits (R21, D5). -/
  capBits : Nat
  /-- `EBV_VALUE_BITS`, the width of the operand `value` of `BB_EBV` and of the Select pointer (D9). -/
  ebvValueBits : Nat
  /-- `SELECT_CMD_CODE`, the 4-bit command opcode that opens a Select frame (R113, D10). -/
  selectCmdCode : BitVec 4
  /-- `VARB_WORD_ORDER` (R110, D19). -/
  varbWordOrder : Config.WordOrder
deriving DecidableEq, Repr

/-- The build with every OPEN parameter at its default (R7). -/
def Build.standard : Build where
  capBits := 512
  ebvValueBits := 32
  selectCmdCode := 0b1010#4
  varbWordOrder := .codeFirst

/-- The capacity in bytes, the size of the `BUF` read space (R60, R63). -/
abbrev Build.capBytes (b : Build) : Nat := b.capBits / 8

/-- What the spec asks of the parameters. The capacity is "a multiple of 8 and at least 320" (R7, D5), and `BITLEN` must fit the
32-bit data of the `REG` space (R60, R62); the EBV operand must fit the 32-bit fields of formats `E` and `S` (R83, R85, R97). -/
abbrev Build.Legal (b : Build) : Prop :=
  320 ≤ b.capBits ∧ b.capBits % 8 = 0 ∧ b.capBits < 2 ^ 32 ∧ 1 ≤ b.ebvValueBits ∧ b.ebvValueBits ≤ 32

end Sys2Proof

namespace Sys2Proof.Config

/-! ### Free values -/

/-- What the host read numbered `k` answers for `SLOPE_NUM`, `OFF_NUM` or `DEN` while no mapping exists: "an arbitrary
32-bit value, possibly different on each read" (R34, 93_implementation_defined.md U1); and, in its low byte, for a `BUF` address
the build does not have. FREE VALUE (assumption logs 3 and 10). -/
opaque unspecifiedRead : Nat → Word32

/-- The temperature of a mapping whose denominator is 0, as a function of the numerator. The spec defines `Round100` for
`den ≠ 0` only (R223), and no run of CORE reaches such a mapping (R33). FREE VALUE (assumption log 4). -/
opaque zeroDenTemperature : Int → Word32

end Sys2Proof.Config
end

