-- ==== Sys2Proof/Machine/State.lean ====
section
/-! DEFINITION. The architectural state of CORE (10_state.md rule R20), its value after reset (R45), and the reasons a step
can stop (none: 60_exceptions.md rule R271). CORE has no program counter, no memory, no modes and no interrupts (R41, R42, R60, R266
to R268); commands come from the host, whose stream the model keeps in `HostPort` (assumption log 2). -/

namespace Sys2Proof.Machine

/-- The contents of `BUF` as its bytes in the byte view of R63, 64 of them in the standard build: bit offset `k` is bit
`7 − (k mod 8)` of byte `k div 8` (R66). `bufBit` (Ops.lean) is the view by bit offset. -/
abbrev Buf := List Byte

/-- The mask register file `MASK[0..31]` (R24). -/
abbrev MaskFile := Vector Byte Config.maskBytes

/-- The calibration word registers `CALW[0..3]` (R27). -/
abbrev WordFile := Vector Word16 4

/-- A status of one channel (R39). Code 7 is never produced (R39, U9), so it has no constructor. -/
inductive Status where
  /-- `ST_NONE` = 0: no classification since reset. -/
  | none
  /-- `ST_OK` = 1: the value register holds a number. -/
  | ok
  /-- `ST_POWER_LOW` = 2. -/
  | powerLow
  /-- `ST_POWER_HIGH` = 3. -/
  | powerHigh
  /-- `ST_BAD_READ` = 4. -/
  | badRead
  /-- `ST_CAL_ABSENT` = 5. -/
  | calAbsent
  /-- `ST_CAL_INVALID` = 6. -/
  | calInvalid
deriving DecidableEq, Repr

/-- The five error causes (R260). -/
inductive Err where
  /-- `ERR_ILLEGAL` = 1. -/
  | illegal
  /-- `ERR_ENUM` = 2. -/
  | enum
  /-- `ERR_RANGE` = 3. -/
  | range
  /-- `ERR_WIDTH` = 4. -/
  | width
  /-- `ERR_OVERFLOW` = 5. -/
  | overflow
deriving DecidableEq, Repr

/-- A response: `OK`, or exactly one error (R112, R260). Codes 6 to 15 are never produced. -/
inductive Resp where
  | ok
  | err (e : Err)
deriving DecidableEq, Repr

/-- The mapping registers, 32-bit two's complement each (R33). They exist only while `CAL_MAPPABLE = 1` (R34). -/
structure Mapping where
  /-- `SLOPE_NUM`. -/
  slopeNum : Word32
  /-- `OFF_NUM`. -/
  offNum : Word32
  /-- `DEN`. -/
  den : Word32
deriving DecidableEq, Repr

/-- The calibration record (R20, R28 to R34). `CAL_MAPPABLE` is whether the mapping exists, and is stored once, as
`mapping.isSome` (`CalRecord.mappable`): "use an option type" (R34, U1; assumption log 3). -/
structure CalRecord where
  /-- `CAL_PRESENT` (R28). -/
  present : Bool
  /-- `CAL_VALID` (R28). -/
  valid : Bool
  /-- `CAL_VARIANT` (R29). -/
  variant : BitVec 2
  /-- `CAL_CODE1` (R30). -/
  code1 : Word16
  /-- `CAL_TEMP1` (R30). -/
  temp1 : BitVec 11
  /-- `CAL_CODE2` (R30). -/
  code2 : Word16
  /-- `CAL_TEMP2` (R30). -/
  temp2 : BitVec 11
  /-- `CAL_FMT1` (R31). -/
  fmt1 : BitVec 3
  /-- `CAL_FMT2` (R31). -/
  fmt2 : BitVec 3
  /-- `CAL_CHK_STORED` (R32). -/
  chkStored : Word16
  /-- `CAL_CHK_CALC` (R32). -/
  chkCalc : Word16
  /-- `SLOPE_NUM`, `OFF_NUM`, `DEN` while `CAL_MAPPABLE = 1`; no mapping while `CAL_MAPPABLE = 0` (R33, R34). -/
  mapping : Option Mapping
deriving DecidableEq, Repr

/-- `CAL_MAPPABLE`: the mapping exists (R28, R34). -/
abbrev CalRecord.mappable (r : CalRecord) : Bool := r.mapping.isSome

/-- The record while calibration is absent: after reset and after `CAL_CLEAR` (R45, R182). -/
def CalRecord.absent : CalRecord where
  present := false
  valid := false
  variant := 0#2
  code1 := 0#16
  temp1 := 0#11
  code2 := 0#16
  temp2 := 0#11
  fmt1 := 0#3
  fmt2 := 0#3
  chkStored := 0#16
  chkCalc := 0#16
  mapping := Option.none

/-- An address of the host's read port: a space and an address of that space's width (R60). -/
inductive ReadReq where
  /-- `HostRead(REG, a)`. -/
  | reg (a : BitVec 8)
  /-- `HostRead(BUF, a)`: 6 bits of address in the standard build, where they cover exactly the size of the space (R65). -/
  | buf (a : Nat)
  /-- `HostRead(MASK, a)`. -/
  | mask (a : BitVec 5)
deriving DecidableEq, Repr

/-- What the read port answers: 32 bits in the `REG` space, 8 bits in the `BUF` and `MASK` spaces (R60). -/
inductive ReadData where
  | word (v : Word32)
  | byte (v : Byte)
deriving DecidableEq, Repr

/-- What the outside world can do to CORE between commands: issue a command word (R9), read (R61), or assert the hardware reset
input (R290). -/
inductive HostInput where
  | command (w : CmdWord)
  | read (r : ReadReq)
  | reset
deriving DecidableEq, Repr

/-- The model's own record of the host (assumption log 2): no register of CORE, so no reset touches it. -/
structure HostPort where
  /-- What the host has issued and CORE has not yet taken, oldest first (R41: "the order of execution is the order of issue"). -/
  pending : List HostInput
  /-- The answer to the latest read; nothing before the first one. -/
  readData : Option ReadData
  /-- How many reads were answered: the number of the next read, which picks its free value (assumption log 3). -/
  reads : Nat
deriving DecidableEq, Repr

/-- The state of CORE: every register of R20's table, each under its own name, and the host's side of the ports. -/
structure State where
  /-- `BUF`, `BUF_CAP_BITS` bits, 512 in the standard build (R21). -/
  buf : Buf
  /-- `BITLEN`, an integer 0 to `BUF_CAP_BITS`, 10 bits wide in the standard build (R22). -/
  bitlen : Nat
  /-- `MASK[0..31]` (R24). -/
  mask : MaskFile
  /-- `CRC_REG` (R25); `CRC_OUT` is a view of it (R26). -/
  crcReg : Word16
  /-- `CALW[0..3]` (R27). -/
  calw : WordFile
  /-- The calibration record (R28 to R34). -/
  cal : CalRecord
  /-- `MOIST_STATUS` (R36). -/
  moistStatus : Status
  /-- `MOIST_VALUE` (R36). -/
  moistValue : Word16
  /-- `TEMP_STATUS` (R37). -/
  tempStatus : Status
  /-- `TEMP_VALUE`, two's complement, unit 0.01 °C (R37). -/
  tempValue : Word32
  /-- `BACK_STATUS[0..1]` (R38). -/
  backStatus : Vector Status 2
  /-- `BACK_VALUE[0..1]` (R38). -/
  backValue : Vector Word16 2
  /-- `LAST_RESP` (R40); it is also how the model shows a command's response (assumption log 5). -/
  lastResp : Resp
  /-- `ERR_STICKY`, 8 bits (R40). -/
  errSticky : BitVec 8
  /-- The host's side of the ports; the model's own (assumption log 2). -/
  port : HostPort
  /-- The build this CORE is: no state of CORE but the parameters of its step function (R44), which nothing ever changes
  (assumption log 1). -/
  build : Build
deriving DecidableEq, Repr

/-- The state after reset of a build: exactly R45's table, and a host that has issued nothing. -/
def State.resetOf (b : Build) : State where
  buf := List.replicate b.capBytes 0#8
  bitlen := 0
  mask := Vector.replicate _ 0#8
  crcReg := 0xFFFF#16
  calw := Vector.replicate _ 0#16
  cal := CalRecord.absent
  moistStatus := .none
  moistValue := 0#16
  tempStatus := .none
  tempValue := 0#32
  backStatus := Vector.replicate _ .none
  backValue := Vector.replicate _ 0#16
  lastResp := .ok
  errSticky := 0#8
  port := { pending := [], readData := Option.none, reads := 0 }
  build := b

/-- The state after reset of the standard build. -/
def State.reset : State := State.resetOf Build.standard

/-- The faults of CORE: there are none. "For every state and every 64-bit word, `step` returns a next state and a response: it
never gets stuck, never diverges and never faults outside the response code" (R271). An error is a next state whose `LAST_RESP` is
the error code. Nothing raises a fault; an empty type is safe, since it can only allow what the spec allows. -/
inductive Fault where
deriving DecidableEq, Repr

/-- The reasons to refuse an instruction. -/
inductive Refusal where
  /-- An instruction of the opcode table that has no meaning yet. Only `exec`'s arms may raise it, and none does: every row
  has its meaning. It would be safe: a refusal proves nothing about the hardware. -/
  | notModelled (mnemonic : String)
deriving DecidableEq, Repr

/-- The outcome of a step of CORE. -/
abbrev Result := Host.Outcome State Fault Refusal

end Sys2Proof.Machine
end

