-- ==== Sys2Proof/Machine/Operands.lean ====
section
/-! DEFINITION. The operand forms: bit fields, EBV groups, the fields of a Select frame, bytes and words, and the reference
decoders the spec's properties speak of (30_encoding.md part B; 20_memory.md rules R66 to R69; 41_bitfield_packer.md rules R123, R124;
42_select_builder.md rule R142). -/

namespace Sys2Proof.Machine

open Sys2Proof.Config

/-! ### A packed field -/

/-- A BitField: a value and its width; its place in the buffer is always the current `BITLEN` (R100, R128). -/
structure BitField where
  width : Nat
  value : Nat
deriving DecidableEq, Repr

/-- The `width` low bits of a value, most significant first (R100, R123: bit `i` of the list is `v[w − 1 − i]`). -/
def BitField.bits (f : BitField) : List Bool :=
  (List.range f.width).map fun i => f.value.testBit (f.width - 1 - i)

/-- The bits of fields packed one after the other, with no padding (R100). -/
def bitsOf (fs : List BitField) : List Bool := fs.flatMap BitField.bits

/-- The field that holds a bit vector whole. -/
def fieldOf {w : Nat} (v : BitVec w) : BitField := ⟨w, v.toNat⟩

/-! ### EBV -/

/-- The loop of R124: from `n` groups on, one more while `v div 128^n` is not 0. -/
def ebvCountFrom (v : Nat) : Nat → Nat → Nat
  | 0, n => n
  | fuel + 1, n => if v / 128 ^ n ≠ 0 then ebvCountFrom v fuel (n + 1) else n

/-- The number of EBV groups of `v` (R102, R124). Each turn of the loop but the last takes at least one bit of `v`, so that
`log2 v` bounds the turns. -/
def ebvCount (v : Nat) : Nat := ebvCountFrom v v.log2 1

/-- Group `j` of `n`: the 7-bit digit with the continuation flag in bit 7 of every group but the last (R101, R102, R124). -/
def ebvGroup (v : Nat) (n j : Nat) : Byte :=
  BitVec.ofNat 8 ((if j < n - 1 then 128 else 0) + v / 128 ^ (n - 1 - j) % 128)

/-- `EbvGroups(v)`: the EBV bytes of `v`, first group first, for every non-negative integer (R102, R124). -/
def ebvGroups (v : Nat) : List Byte := (List.range (ebvCount v)).map (ebvGroup v (ebvCount v))

/-- `EBV-width(v)` = 8n bits (R102). -/
def ebvWidth (v : Nat) : Nat := ebvGroupBits * (ebvGroups v).length

/-- The EBV encoding of `v` as 8-bit fields (R122, R141). -/
def ebvFields (v : Nat) : List BitField := (ebvGroups v).map fieldOf

/-- The number a list of bits spells, most significant first. -/
def natOfBits (bs : List Bool) : Nat := bs.foldl (fun n b => 2 * n + b.toNat) 0

/-- `EbvDecode` with at most `fuel` groups and the accumulator `acc`: the value and the bits after it; nothing where the bits
end inside a group or no final group comes in time (R103). -/
def ebvDecodeFrom : Nat → Nat → List Bool → Option (Nat × List Bool)
  | 0, _, _ => Option.none
  | fuel + 1, acc, bits =>
    if bits.length < ebvGroupBits then Option.none
    else
      let g := bits.take ebvGroupBits
      let acc' := acc * 128 + natOfBits (g.drop 1)
      if g.headD false then ebvDecodeFrom fuel acc' (bits.drop ebvGroupBits)
      else some (acc', bits.drop ebvGroupBits)

/-- The reference decoder `EbvDecode` (R103); not a command. Each group takes 8 bits, so the length bounds the groups. -/
def ebvDecode (bits : List Bool) : Option (Nat × List Bool) := ebvDecodeFrom (bits.length + 1) 0 bits

/-! ### Bytes and words -/

/-- `WordsToBytes`: high byte first (R67). -/
def wordsToBytes : List Word16 → List Byte
  | [] => []
  | w :: ws => w.extractLsb 15 8 :: w.extractLsb 7 0 :: wordsToBytes ws

/-- `BytesToWords`: a byte of even index is the high half of its word (R68). An odd-length sequence has no words: "odd-length
inputs are a caller error" (R68, U12). -/
def bytesToWords : List Byte → Option (List Word16)
  | [] => some []
  | [_] => Option.none
  | hi :: lo :: bs => (bytesToWords bs).map fun ws => (hi ++ lo) :: ws

/-! ### The mask and the Select frame -/

/-- `MASK[i]`; `SEL_BUILD` reads only indices below 32 (R24, R141). -/
def maskByte (m : MaskFile) (i : Nat) : Byte := m.getD i 0#8

/-- Bit `j` of the mask, `MASK[j div 8][7 − (j mod 8)]` (R142). -/
def maskBit (m : MaskFile) (j : Nat) : Bool := (maskByte m (j / 8)).getLsbD (7 - j % 8)

/-- `MaskBits(masklen)` (R142). -/
def maskBits (m : MaskFile) (masklen : Nat) : List Bool := (List.range masklen).map (maskBit m)

/-- The mask as `SEL_BUILD` appends it: `q` whole bytes, then the `r` most significant bits of the next one when `r` is not 0
(R141). -/
def maskFields (m : MaskFile) (masklen : Nat) : List BitField :=
  let q := masklen / 8
  let r := masklen % 8
  (List.range q).map (fun i => ⟨8, (maskByte m i).toNat⟩) ++
    (if r ≠ 0 then [⟨r, (maskByte m q).toNat / 2 ^ (8 - r)⟩] else [])

/-- The fields of a Select frame before the mask: command opcode, target, action, bank, EBV pointer, mask length (R104, R141). -/
def selectHead (cmdCode target action bank masklen pointer : Nat) : List BitField :=
  [⟨4, cmdCode⟩, ⟨3, target⟩, ⟨3, action⟩, ⟨2, bank⟩] ++ ebvFields pointer ++ [⟨8, masklen⟩]

/-- The fields of a Select frame in order, for a command opcode `cmdCode` (R104, R113, R141). -/
def selectFields (cmdCode : BitVec 4) (m : MaskFile) (target action bank : BitVec 4) (masklen : BitVec 12)
    (pointer : Word32) : List BitField :=
  selectHead cmdCode.toNat target.toNat action.toNat bank.toNat masklen.toNat pointer.toNat ++
    maskFields m masklen.toNat ++ [fieldOf selTruncate]

/-- What the reference parser reads from a Select frame (R108). -/
structure SelectParts where
  target : Nat
  action : Nat
  bank : Nat
  pointer : Nat
  masklen : Nat
  mask : List Bool
  truncate : Bool
deriving DecidableEq, Repr

/-- The reference parser `SelectParse` (R108); not a command. It succeeds when the command opcode is `cmdCode` and exactly all
bits were consumed. -/
def selectParse (cmdCode : BitVec 4) (bits : List Bool) : Option SelectParts :=
  if bits.length < 12 then Option.none
  else if natOfBits (bits.take 4) ≠ cmdCode.toNat then Option.none
  else
    match ebvDecode (bits.drop 12) with
    | Option.none => Option.none
    | some (pointer, rest) =>
      let masklen := natOfBits (rest.take 8)
      if rest.length = 8 + masklen + 1 then
        some
          { target := natOfBits ((bits.drop 4).take 3)
            action := natOfBits ((bits.drop 7).take 3)
            bank := natOfBits ((bits.drop 10).take 2)
            pointer := pointer
            masklen := masklen
            mask := (rest.drop 8).take masklen
            truncate := (rest.drop (8 + masklen)).headD false }
      else Option.none

end Sys2Proof.Machine
end

