-- ==== Sys2Proof/Machine/Flags.lean ====
section
/-! DEFINITION. Every flag and check value of CORE: the CRC-16 function, population counts and parity, the validity of the two
calibration layouts, mappability, and the error bits of `ERR_STICKY` (43_crc16.md rules R163, R164; 44_calibration_decoder.md rules
R186, R189, R192; 60_exceptions.md rules R260, R263). CORE has no arithmetic condition codes (10_state.md rule R43). -/

namespace Sys2Proof.Machine

open Sys2Proof.Config

/-! ### CRC-16 -/

/-- One of the 8 iterations of R163: the top bit is tested before the shift, and the bit shifted out is discarded. -/
def crc16Shift (r : Word16) : Word16 := if r.msb then (r <<< 1) ^^^ crcPoly else r <<< 1

/-- `n` iterations. -/
def crc16Shifts : Nat → Word16 → Word16
  | 0, r => r
  | n + 1, r => crc16Shifts n (crc16Shift r)

/-- `Crc16Update(r, b)`: the byte is XORed into bits 15:8, then 8 iterations follow (R163). -/
def crc16Update (r : Word16) (b : Byte) : Word16 := crc16Shifts 8 (r ^^^ (b ++ 0#8))

/-- The register after feeding a byte sequence from `r` (R164). -/
def crc16Feed (r : Word16) (bytes : List Byte) : Word16 := bytes.foldl crc16Update r

/-- `Crc16(bytes)` (R164). -/
def crc16 (bytes : List Byte) : Word16 := crc16Feed crcInit bytes ^^^ crcXorOut

/-! ### Parity -/

/-- `popcount(v)`: the number of 1 bits (R12). -/
def popcount {w : Nat} (v : BitVec w) : Nat := (List.range w).countP v.getLsbD

/-- The two parity bits a Variant B group must store: format and temperature in the high bit, code in the low bit (R189). -/
def expectedParity (fmt : BitVec 3) (temp : BitVec 11) (code : Word16) : BitVec 2 :=
  BitVec.ofNat 2 ((popcount fmt + popcount temp) % 2 * 2 + popcount code % 2)

/-! ### The flags of the calibration record -/

/-- Variant A: the recomputed check equals the stored one and the version is 0 (R186). -/
def validA (chkStored chkCalc : Word16) (version : BitVec 3) : Bool := chkCalc == chkStored && version == 0#3

/-- Variant B: both formats are 0 and both stored parities are the expected ones (R189). -/
def validB (fmt1 fmt2 : BitVec 3) (par1 exp1 par2 exp2 : BitVec 2) : Bool :=
  fmt1 == 0#3 && fmt2 == 0#3 && par1 == exp1 && par2 == exp2

/-- `CAL_MAPPABLE`: the record is valid and the two reference codes differ (R192). -/
def mappableOf (valid : Bool) (code1 code2 : Word16) : Bool := valid && code2 != code1

/-! ### The error bits -/

/-- The code of an error (R112, R260). -/
def errCode : Err → Nat
  | .illegal => 1
  | .enum => 2
  | .range => 3
  | .width => 4
  | .overflow => 5

/-- The code of a response: 0 for `OK` (R112, R260). -/
def respCode : Resp → Nat
  | .ok => 0
  | .err e => errCode e

/-- The bit of `ERR_STICKY` an error sets: `2^X` (R263). -/
def errBit (e : Err) : BitVec 8 := 1#8 <<< errCode e

/-- The code of a status (R39). -/
def statusCode : Status → Nat
  | .none => 0
  | .ok => 1
  | .powerLow => 2
  | .powerHigh => 3
  | .badRead => 4
  | .calAbsent => 5
  | .calInvalid => 6

end Sys2Proof.Machine
end

