-- ==== Sys2Proof/Machine/Ops.lean ====
section
/-! DEFINITION. The shared operations over registers: completing a command, raising an error (the only exception mechanism CORE
has) and acknowledging errors, the packer's append, and the reset of all registers (60_exceptions.md rules R263, R266;
41_bitfield_packer.md rule R123; 70_reset_and_hazards.md rule R290). -/

namespace Sys2Proof.Machine

open Sys2Proof.Config

/-! ### The end of a command -/

/-- A command that reaches its end without `raise` responds `OK` and sets `LAST_RESP` to `OK`; `ERR_STICKY` stays (R14, R263). -/
def respondOk (s : State) : State := { s with lastResp := .ok }

/-- `raise ERR_X`, applied to the state before the command, so that nothing the command wrote survives: `LAST_RESP` becomes the
error and its bit of `ERR_STICKY` is set (R14, R263). CORE saves nothing, switches no mode and transfers control nowhere (R266). -/
def raise (e : Err) (s : State) : State := { s with lastResp := .err e, errSticky := s.errSticky ||| errBit e }

/-- Acknowledging errors: the error bits become 0. There is nothing to return from (R252, R266). -/
def clearErrors (s : State) : State := { s with errSticky := 0#8 }

/-- Every register takes its reset value; the host's side of the ports and the build are no registers and stay (R44, R45, R251,
R290). -/
def resetRegisters (s : State) : State := { State.resetOf s.build with port := s.port }

/-! ### The bit buffer -/

/-- Bit `j` of a byte counted from the most significant becomes `b`. -/
def setMsbBit (x : Byte) (j : Nat) (b : Bool) : Byte :=
  if b then x ||| (0x80#8 >>> j) else x &&& ~~~(0x80#8 >>> j)

/-- `BUF.bit[k]` (R13, R66): bit `7 − (k mod 8)` of byte `k div 8`; 0 at an offset the buffer does not have. -/
def bufBit (buf : Buf) (k : Nat) : Bool := (buf.getD (k / 8) 0#8).getLsbD (7 - k % 8)

/-- `BUF.bit[k] <- b` (R14, R66); no offset at or past the capacity exists, so nothing is written there. -/
def setBufBit (buf : Buf) (k : Nat) (b : Bool) : Buf :=
  buf.set (k / 8) (setMsbBit (buf.getD (k / 8) 0#8) (k % 8) b)

/-- The loop of R123: the bits of a list go to successive offsets, the first to offset `k`. -/
def writeBits (buf : Buf) (k : Nat) : List Bool → Buf
  | [] => buf
  | b :: bs => writeBits (setBufBit buf k b) (k + 1) bs

/-- `Put(v, w)`: the elementary append (R123). Its callers establish that the field fits. -/
def put (s : State) (f : BitField) : State :=
  { s with
    buf := writeBits s.buf s.bitlen f.bits
    bitlen := s.bitlen + f.width }

/-- Successive appends, in order. -/
def putAll (s : State) (fs : List BitField) : State := fs.foldl put s

/-- An empty buffer: every bit 0 and `BITLEN` 0 (R120, R141). -/
def clearBuffer (s : State) : State := { s with buf := List.replicate s.build.capBytes 0#8, bitlen := 0 }

/-- A field of `w` bits more would pass the capacity, compared as integers (R121, R122, R256). -/
abbrev overflows (s : State) (w : Nat) : Prop := s.bitlen + w > s.build.capBits

/-! ### The CRC register -/

/-- Feeding bytes to `CRC_REG` (R161, R162). -/
def feedCrc (bytes : List Byte) (s : State) : State := { s with crcReg := crc16Feed s.crcReg bytes }

/-- `CRC_OUT`, the read-only view `CRC_REG XOR 0xFFFF` (R26). -/
def crcOut (s : State) : Word16 := s.crcReg ^^^ crcXorOut

end Sys2Proof.Machine
end

