-- ==== Sys2Proof/Machine/Calibration.lean ====
section
/-! DEFINITION. The calibration decoder: `CAL_LDW`, `CAL_LDB`, `CAL_CLEAR`, `CAL_DECODE` (44_calibration_decoder.md; layouts in
30_encoding.md rules R109, R110). -/

namespace Sys2Proof.Machine

open Sys2Proof.Config

/-! ### Loading words -/

/-- `CAL_LDW idx, word` (R180). -/
def execCalLdw (idx : BitVec 2) (word : Word16) (s : State) : Result :=
  .next (respondOk { s with calw := s.calw.set idx.toNat word idx.isLt })

/-- A word with one of its bytes replaced: the high byte for an even index, the low byte for an odd one (R181). -/
def replaceByte (idx : BitVec 3) (byte : Byte) (w : Word16) : Word16 :=
  if idx.toNat % 2 = 0 then byte ++ (w.extractLsb 7 0 : Byte) else (w.extractLsb 15 8 : Byte) ++ byte

/-- The word a byte index lies in is one of the four. -/
theorem wordOfByte_lt (idx : BitVec 3) : idx.toNat / 2 < 4 := Nat.div_lt_of_lt_mul idx.isLt

/-- `CAL_LDB idx, byte`: byte `idx` of the 8-byte big-endian image of the word registers (R181). -/
def execCalLdb (idx : BitVec 3) (byte : Byte) (s : State) : Result :=
  .next (respondOk
    { s with
      calw := s.calw.set (idx.toNat / 2)
        (replaceByte idx byte (s.calw[idx.toNat / 2]'(wordOfByte_lt idx))) (wordOfByte_lt idx) })

/-- `CAL_CLEAR`: calibration becomes absent; `CALW` stays (R182). -/
def execCalClear (s : State) : Result := .next (respondOk { s with cal := CalRecord.absent })

/-! ### Decoding -/

/-- `DecodeA`: extraction (R185) and validity (R186). The mapping is added by `withMapping`. -/
def decodeA (w : WordFile) : CalRecord :=
  let w1 := w[1]
  let w2 := w[2]
  let w3 := w[3]
  let chkStored := w[0]
  let chkCalc := crc16 (wordsToBytes [w1, w2, w3])
  let version : BitVec 2 := w3.extractLsb 1 0
  { present := true
    valid := validA chkStored chkCalc (version.setWidth 3)
    variant := 0#2
    code1 := (w1.extractLsb 15 4 : BitVec 12).setWidth 16
    temp1 := (w1.extractLsb 3 0 : BitVec 4) ++ (w2.extractLsb 15 9 : BitVec 7)
    code2 := ((w2.extractLsb 8 0 : BitVec 9) ++ (w3.extractLsb 15 13 : BitVec 3)).setWidth 16
    temp2 := w3.extractLsb 12 2
    fmt1 := version.setWidth 3
    fmt2 := 0#3
    chkStored := chkStored
    chkCalc := chkCalc
    mapping := Option.none }

/-- `DecodeB` on the two groups' code words and format/parity/temperature words: extraction (R188) and validity (R189). -/
def decodeGroups (c1 f1 c2 f2 : Word16) : CalRecord :=
  let fmt1 : BitVec 3 := f1.extractLsb 15 13
  let par1 : BitVec 2 := f1.extractLsb 12 11
  let temp1 : BitVec 11 := f1.extractLsb 10 0
  let fmt2 : BitVec 3 := f2.extractLsb 15 13
  let par2 : BitVec 2 := f2.extractLsb 12 11
  let temp2 : BitVec 11 := f2.extractLsb 10 0
  let exp1 := expectedParity fmt1 temp1 c1
  let exp2 := expectedParity fmt2 temp2 c2
  { present := true
    valid := validB fmt1 fmt2 par1 exp1 par2 exp2
    variant := 1#2
    code1 := c1
    temp1 := temp1
    code2 := c2
    temp2 := temp2
    fmt1 := fmt1
    fmt2 := fmt2
    chkStored := (par1 ++ par2).setWidth 16
    chkCalc := (exp1 ++ exp2).setWidth 16
    mapping := Option.none }

/-- `DecodeB` under a word order (R110, R188). -/
def decodeB (order : WordOrder) (w : WordFile) : CalRecord :=
  match order with
  | .codeFirst => decodeGroups w[0] w[1] w[2] w[3]
  | .fptFirst => decodeGroups w[1] w[0] w[3] w[2]

/-- `DecodeReserved`: a present, invalid record with all fields 0 (R190). -/
def decodeReserved (variant : BitVec 2) : CalRecord :=
  { CalRecord.absent with present := true, variant := variant }

/-- The signed difference `b − a` of two unsigned fields, in the integers (R187, R256). -/
def signedDiff {w : Nat} (b a : BitVec w) : Int := (b.toNat : Int) - a.toNat

/-- The mapping through the record's two reference pairs, for a temperature bias in degrees and codes divided by `codeScaleDen`:
`SLOPE_NUM = codeScaleDen·dt`, `DEN = 10·dc`, `OFF_NUM = (TEMP1 + 10·bias)·dc − dt·CODE1` (R187, R191). -/
def mappingWith (bias codeScaleDen : Int) (r : CalRecord) : Mapping :=
  let dc := signedDiff r.code2 r.code1
  let dt := signedDiff r.temp2 r.temp1
  { slopeNum := BitVec.ofInt 32 (codeScaleDen * dt)
    den := BitVec.ofInt 32 (tempScaleDen * dc)
    offNum := BitVec.ofInt 32 (((r.temp1.toNat : Int) + tempScaleDen * bias) * dc - dt * r.code1.toNat) }

/-- The variant's mapping (R187 for Variant A, R191 for Variant B). A reserved variant is never valid, so never mapped (R190). -/
def mappingOf (r : CalRecord) : Mapping :=
  if r.variant = 0#2 then mappingWith varaBias varaCodeScaleDen r else mappingWith varbBias varbCodeScaleDen r

/-- `CAL_MAPPABLE` and, where it is 1, the mapping (R183, R192). -/
def withMapping (r : CalRecord) : CalRecord :=
  { r with mapping := if mappableOf r.valid r.code1 r.code2 then some (mappingOf r) else Option.none }

/-- The record `CAL_DECODE variant` constructs from the word registers, under the build's word order (R110, R183). -/
def decodeRecord (order : WordOrder) (variant : BitVec 2) (w : WordFile) : CalRecord :=
  withMapping
    (if variant = 0#2 then decodeA w
     else if variant = 1#2 then decodeB order w
     else decodeReserved variant)

/-- `CAL_DECODE variant`: the whole record is overwritten; nothing else but `LAST_RESP` changes (R183, R184, R197). -/
def execCalDecode (variant : BitVec 2) (s : State) : Result :=
  .next (respondOk { s with cal := decodeRecord s.build.varbWordOrder variant s.calw })

end Sys2Proof.Machine
end

