-- ==== Sys2Proof/Machine/Control.lean ====
section
/-! DEFINITION. The housekeeping commands `NOP`, `RESET`, `CLRERR` (46_control.md). -/

namespace Sys2Proof.Machine

/-- `NOP`: no state change other than `LAST_RESP <- OK` (R250). -/
def execNop (s : State) : Result := .next (respondOk s)

/-- `RESET`: every register of R20 takes its reset value of R45, `LAST_RESP` among them (R251). -/
def execReset (s : State) : Result := .next (respondOk (resetRegisters s))

/-- `CLRERR`: the sticky error bits become 0 (R252). -/
def execClrerr (s : State) : Result := .next (respondOk (clearErrors s))

end Sys2Proof.Machine
end

