-- ==== Sys2Proof/Machine/Crc.lean ====
section
/-! DEFINITION. The CRC-16 validator: `CRC_INIT`, `CRC_BYTE`, `CRC_WORD` (43_crc16.md). -/

namespace Sys2Proof.Machine

open Sys2Proof.Config

/-- `CRC_INIT` (R160). -/
def execCrcInit (s : State) : Result := .next (respondOk { s with crcReg := crcInit })

/-- `CRC_BYTE byte` (R161). -/
def execCrcByte (byte : Byte) (s : State) : Result := .next (respondOk (feedCrc [byte] s))

/-- `CRC_WORD word`: its two bytes, the high one first (R162). -/
def execCrcWord (word : Word16) (s : State) : Result := .next (respondOk (feedCrc (wordsToBytes [word]) s))

end Sys2Proof.Machine
end

