-- ==== Sys2Proof/Machine/Packer.lean ====
section
/-! DEFINITION. The bitfield packer: `BB_CLEAR`, `BB_APPEND`, `BB_EBV` (41_bitfield_packer.md). -/

namespace Sys2Proof.Machine

open Sys2Proof.Config

/-- `BB_CLEAR` (R120). -/
def execBbClear (s : State) : Result := .next (respondOk (clearBuffer s))

/-- `BB_APPEND value, width`: width, then range, then overflow is checked, and the first that fails is reported (R121, R264). -/
def execBbAppend (width : BitVec 6) (value : Word32) (s : State) : Result :=
  if width.toNat < fieldMinWidth ∨ width.toNat > fieldMaxWidth then .next (raise .width s)
  else if value.toNat ≥ 2 ^ width.toNat then .next (raise .range s)
  else if overflows s width.toNat then .next (raise .overflow s)
  else .next (respondOk (put s ⟨width.toNat, value.toNat⟩))

/-- `BB_EBV value`: the EBV groups of the value, all or none (R122). -/
def execBbEbv (value : Word32) (s : State) : Result :=
  if overflows s (ebvWidth value.toNat) then .next (raise .overflow s)
  else .next (respondOk (putAll s (ebvFields value.toNat)))

end Sys2Proof.Machine
end

