-- ==== Sys2Proof/Machine/Select.lean ====
section
/-! DEFINITION. The Select builder: `MASK_LD`, `SEL_BUILD` (42_select_builder.md). -/

namespace Sys2Proof.Machine

open Sys2Proof.Config

/-- `MASK_LD idx, byte` (R140). -/
def execMaskLd (idx : BitVec 5) (byte : Byte) (s : State) : Result :=
  .next (respondOk { s with mask := s.mask.set idx.toNat byte idx.isLt })

/-- `SEL_BUILD target, action, bank, pointer, masklen`: four checks in order, then a fresh frame of the fields of R104 (R141,
R264). -/
def execSelBuild (target action bank : BitVec 4) (masklen : BitVec 12) (pointer : Word32) (s : State) : Result :=
  if target.toNat > 4 then .next (raise .enum s)
  else if action.toNat > 7 then .next (raise .enum s)
  else if bank.toNat > 3 then .next (raise .range s)
  else if masklen.toNat > 255 then .next (raise .range s)
  else .next (respondOk
    (putAll (clearBuffer s) (selectFields s.build.selectCmdCode s.mask target action bank masklen pointer)))

end Sys2Proof.Machine
end

