-- ==== Sys2Proof/Machine/Threshold.lean ====
section
/-! DEFINITION. The status thresholder: `CLASSIFY`, `CLS_BACK` (45_status_thresholder.md). All comparisons are on unsigned 16-bit
integers (R225). -/

namespace Sys2Proof.Machine

open Sys2Proof.Config

/-- `Round100(num, den)` for `den ≠ 0`: the integer nearest to `100·num/den`, ties away from zero (R223). -/
def round100 (num den : Int) : Int :=
  let n := if den < 0 then -(100 * num) else 100 * num
  let d := den.natAbs
  let q : Nat := (2 * n.natAbs + d) / (2 * d)
  if n ≥ 0 then (q : Int) else -(q : Int)

/-- `TEMP_VALUE` on the `ST_OK` branch: `slope·temp + offset` in hundredths of a degree (R220, R223). -/
def temperatureOf (m : Mapping) (temp : Word16) : Word32 :=
  let num := m.slopeNum.toInt * temp.toNat + m.offNum.toInt
  if m.den = 0#32 then zeroDenTemperature num else BitVec.ofInt 32 (round100 num m.den.toInt)

/-- The moisture channel (R220, R221). -/
def moistChannel (moist ocrssi : Word16) : Status × Word16 :=
  if ocrssi.toNat < ocrssiMin then (.powerLow, 0#16)
  else if ocrssi.toNat > ocrssiMaxMoist then (.powerHigh, 0#16)
  else (.ok, moist)

/-- The temperature channel: first match wins (R220, R222, R226). -/
def tempChannel (cal : CalRecord) (ocrssi temp : Word16) : Status × Word32 :=
  if ocrssi.toNat < ocrssiMin then (.powerLow, 0#32)
  else if ocrssi.toNat > ocrssiMaxTemp then (.powerHigh, 0#32)
  else if temp.toNat < tempCodeMin ∨ temp.toNat > tempCodeMax then (.badRead, 0#32)
  else if cal.present = false then (.calAbsent, 0#32)
  else if cal.valid = false then (.calInvalid, 0#32)
  else
    match cal.mapping with
    | Option.none => (.calInvalid, 0#32)
    | some m => (.ok, temperatureOf m temp)

/-- The backport channel (R224, R228). -/
def backChannel (ocrssi code : Word16) : Status × Word16 :=
  if ocrssi.toNat < ocrssiMin then (.powerLow, 0#16)
  else if ocrssi.toNat > ocrssiMaxTemp then (.powerHigh, 0#16)
  else (.ok, code)

/-- `CLASSIFY moist, ocrssi, temp`: both channels are always written (R220). -/
def execClassify (moist ocrssi temp : Word16) (s : State) : Result :=
  .next (respondOk
    { s with
      moistStatus := (moistChannel moist ocrssi).1
      moistValue := (moistChannel moist ocrssi).2
      tempStatus := (tempChannel s.cal ocrssi temp).1
      tempValue := (tempChannel s.cal ocrssi temp).2 })

/-- `CLS_BACK n, code, ocrssi`: slot `n` is written, the other stays (R224). -/
def execClsBack (n : BitVec 1) (ocrssi code : Word16) (s : State) : Result :=
  .next (respondOk
    { s with
      backStatus := s.backStatus.set n.toNat (backChannel ocrssi code).1 n.isLt
      backValue := s.backValue.set n.toNat (backChannel ocrssi code).2 n.isLt })

end Sys2Proof.Machine
end

