-- ==== Sys2Proof/Machine/Dispatch.lean ====
section
/-! DEFINITION. One arm per command, each a direct call of its meaning. -/

namespace Sys2Proof.Machine

def exec (i : Instr) (s : State) : Host.Outcome State Fault Refusal :=
  match i with
  -- housekeeping
  | .nop => Sys2Proof.Machine.execNop s
  | .reset => Sys2Proof.Machine.execReset s
  | .clrerr => Sys2Proof.Machine.execClrerr s
  -- bitfield packer
  | .bbClear => Sys2Proof.Machine.execBbClear s
  | .bbAppend width value => Sys2Proof.Machine.execBbAppend width value s
  | .bbEbv value => Sys2Proof.Machine.execBbEbv value s
  -- Select builder
  | .maskLd idx byte => Sys2Proof.Machine.execMaskLd idx byte s
  | .selBuild target action bank masklen pointer => Sys2Proof.Machine.execSelBuild target action bank masklen pointer s
  -- CRC-16 validator
  | .crcInit => Sys2Proof.Machine.execCrcInit s
  | .crcByte byte => Sys2Proof.Machine.execCrcByte byte s
  | .crcWord word => Sys2Proof.Machine.execCrcWord word s
  -- calibration decoder
  | .calLdw idx word => Sys2Proof.Machine.execCalLdw idx word s
  | .calLdb idx byte => Sys2Proof.Machine.execCalLdb idx byte s
  | .calDecode variant => Sys2Proof.Machine.execCalDecode variant s
  | .calClear => Sys2Proof.Machine.execCalClear s
  -- status thresholder
  | .classify moist ocrssi temp => Sys2Proof.Machine.execClassify moist ocrssi temp s
  | .clsBack n ocrssi code => Sys2Proof.Machine.execClsBack n ocrssi code s

end Sys2Proof.Machine
end

