-- ==== Sys2Proof/Machine/HostPort.lean ====
section
/-! DEFINITION. The host's ports: the three read-only address spaces (20_memory.md rules R60 to R65), the hardware reset input
(70_reset_and_hazards.md rule R290), an illegal command word (60_exceptions.md rule R261), and taking the host's next input. -/

namespace Sys2Proof.Machine

open Sys2Proof.Config

/-! ### The read port -/

/-- A mapping register as the host reads it: its value while a mapping exists, otherwise the free value `fresh` (R34, R62, U1). -/
def readMapping (cal : CalRecord) (get : Mapping → Word32) (fresh : Word32) : Word32 :=
  match cal.mapping with
  | some m => get m
  | Option.none => fresh

/-- `CAL_FLAGS`: bit 0 `CAL_PRESENT`, bit 1 `CAL_VALID`, bit 2 `CAL_MAPPABLE`, bits 4:3 `CAL_VARIANT` (R62). -/
def calFlags (cal : CalRecord) : BitVec 5 :=
  cal.variant ++ (BitVec.ofBool cal.mappable ++ (BitVec.ofBool cal.valid ++ BitVec.ofBool cal.present))

/-- The `REG` space: narrower values are zero-extended, and an address not in the table reads 0 (R62, R65). -/
def readReg (a : BitVec 8) (fresh : Word32) (s : State) : Word32 :=
  match a.toNat with
  | 0x00 => BitVec.ofNat 32 (respCode s.lastResp)
  | 0x01 => s.errSticky.setWidth 32
  | 0x02 => BitVec.ofNat 32 s.bitlen
  | 0x03 => s.crcReg.setWidth 32
  | 0x04 => (crcOut s).setWidth 32
  | 0x08 => s.calw[0].setWidth 32
  | 0x09 => s.calw[1].setWidth 32
  | 0x0A => s.calw[2].setWidth 32
  | 0x0B => s.calw[3].setWidth 32
  | 0x10 => (calFlags s.cal).setWidth 32
  | 0x11 => s.cal.code1.setWidth 32
  | 0x12 => s.cal.temp1.setWidth 32
  | 0x13 => s.cal.code2.setWidth 32
  | 0x14 => s.cal.temp2.setWidth 32
  | 0x15 => s.cal.fmt1.setWidth 32
  | 0x16 => s.cal.fmt2.setWidth 32
  | 0x17 => s.cal.chkStored.setWidth 32
  | 0x18 => s.cal.chkCalc.setWidth 32
  | 0x19 => readMapping s.cal Mapping.slopeNum fresh
  | 0x1A => readMapping s.cal Mapping.offNum fresh
  | 0x1B => readMapping s.cal Mapping.den fresh
  | 0x20 => BitVec.ofNat 32 (statusCode s.moistStatus)
  | 0x21 => s.moistValue.setWidth 32
  | 0x22 => BitVec.ofNat 32 (statusCode s.tempStatus)
  | 0x23 => s.tempValue
  | 0x24 => BitVec.ofNat 32 (statusCode s.backStatus[0])
  | 0x25 => s.backValue[0].setWidth 32
  | 0x26 => BitVec.ofNat 32 (statusCode s.backStatus[1])
  | 0x27 => s.backValue[1].setWidth 32
  | _ => 0#32

/-- `HostRead(space, addr)` (R61 to R65). `fresh` is the free value an UNSPECIFIED register answers with, and so does a `BUF`
address past the build's capacity, of which the spec states no value (assumption log 10). -/
def hostRead (r : ReadReq) (fresh : Word32) (s : State) : ReadData :=
  match r with
  | .reg a => .word (readReg a fresh s)
  | .buf a => .byte (if a < s.build.capBytes then s.buf.getD a 0#8 else fresh.setWidth 8)
  | .mask a => .byte (maskByte s.mask a.toNat)

/-- A host read: the port answers, and no register changes (R61). The free value is a new one for every read (U1). -/
def serveRead (r : ReadReq) (s : State) : State :=
  { s with
    port :=
      { s.port with
        readData := some (hostRead r (unspecifiedRead s.port.reads) s)
        reads := s.port.reads + 1 } }

/-! ### Reset and illegal words -/

/-- The hardware reset input: every register takes its reset value, whatever the state (R290). -/
def hardReset (s : State) : State := resetRegisters s

/-- The operand of a command that `EBV_VALUE_BITS` limits fits it. In a build with a narrower operand the field's bits above it
belong to no operand and are reserved (R80, R95), so that "larger pointers cannot be presented" (91_not_in_source.md N4; assumption
log 1). In the standard build every operand fits its 32-bit field. -/
def presents (b : Build) (i : Instr) : Bool :=
  match i with
  | .bbEbv value => decide (value.toNat < 2 ^ b.ebvValueBits)
  | .selBuild _ _ _ _ pointer => decide (pointer.toNat < 2 ^ b.ebvValueBits)
  | .nop | .reset | .clrerr | .bbClear | .bbAppend _ _ | .maskLd _ _ | .crcInit | .crcByte _ | .crcWord _ | .calLdw _ _
  | .calLdb _ _ | .calDecode _ | .calClear | .classify _ _ _ | .clsBack _ _ _ => true

/-- An illegal command: nothing executes, `ERR_ILLEGAL` is reported (R94, R261). -/
def illegalCommand (s : State) : State := raise .illegal s

/-! ### Taking the next input -/

/-- The state with the pending inputs replaced. -/
def withPending (p : List HostInput) (s : State) : State := { s with port := { s.port with pending := p } }

/-- The oldest input the host has issued, and the state without it (R9, R41). -/
def takeInput (s : State) : Option (HostInput × State) :=
  match s.port.pending with
  | [] => Option.none
  | x :: rest => some (x, withPending rest s)

/-- The host issues one more input before everything it has issued: that input is the next CORE takes. -/
def issueNext (x : HostInput) (s : State) : State := withPending (x :: s.port.pending) s

end Sys2Proof.Machine
end

