-- ==== Sys2Proof/Machine/Step.lean ====
section
/-! DEFINITION. One step: CORE takes the oldest input the host has issued and serves it whole (00_scope.md rule R9). A command
word is decoded and executed under the parameters of the build (R44); a word that spells no command is reported (R94); a read is
answered (R61); the reset input resets (R290). With no input pending CORE waits, ready, and nothing changes (R9, R270; assumption
log 2). -/

namespace Sys2Proof.Machine

def step (s : State) : Host.Outcome State Fault Refusal :=
  match takeInput s with
  | Option.none => .next s
  | some (.read r, s') => .next (serveRead r s')
  | some (.reset, s') => .next (hardReset s')
  | some (.command w, s') =>
    match decode w with
    | .instr i => if presents s'.build i then exec i s' else .next (illegalCommand s')
    | .illegal _ => .next (illegalCommand s')

/-- The state in which the host has issued, as the next input, the command word whose bits are `w` (every bit above `nbits` 0).
CORE fetches nothing from a memory: a command is presented by the host (R41, R76; assumption log 2). -/
def State.withFetchWord (s : State) (nbits w : Nat) : State :=
  issueNext (.command (BitVec.ofNat 64 (w % 2 ^ nbits))) s

end Sys2Proof.Machine
end

