-- ==== Sys2Proof/Safety.lean ====
section
/-! DEFINITION. The terms the claims use: what a run is, the invariant of CORE, which registers a command may write, and what the
spec's laws about sequences of commands speak of. CORE is safe when every run goes on: no step faults, none is refused, and the
invariant holds at every state a run from reset reaches (60_exceptions.md rule R271). -/

namespace Sys2Proof.Machine

open Sys2Proof.Config

/-! ### Runs of commands -/

/-- Executing a list of commands in order (R74: "strictly in the order the host issued them, each to completion"). -/
def runCommands : List Instr → State → Result
  | [], s => .next s
  | i :: is, s =>
    match exec i s with
    | .next t => runCommands is t
    | .fault r => .fault r
    | .refused r => .refused r

/-- The state after a list of commands that all respond `OK`; nothing if one of them does not. -/
def runOk : List Instr → State → Option State
  | [], s => some s
  | i :: is, s =>
    match exec i s with
    | .next t => if t.lastResp = .ok then runOk is t else Option.none
    | _ => Option.none

/-- Every run of `n` steps from `s` ends in a state: nothing stops it. -/
def GoesOn (s : State) : Prop := ∀ n, ∃ t, core.run n s = .next t

/-! ### The invariant -/

/-- The buffer's content: the bits at offsets 0 to `BITLEN − 1`, in order (R13, R22). -/
def content (s : State) : List Bool := (List.range s.bitlen).map (bufBit s.buf)

/-- Zero tail (R23): every bit at or past `BITLEN` is 0. -/
def ZeroTail (s : State) : Prop := ∀ k, s.bitlen ≤ k → bufBit s.buf k = false

/-- The buffer has as many bytes as the build's capacity asks (R21, R63). -/
def BufSized (s : State) : Prop := s.buf.length = s.build.capBytes

/-- `CAL_MAPPABLE = 1` implies `CAL_VALID = 1`, and that implies `CAL_PRESENT = 1` (R28). -/
def CalRecord.Consistent (r : CalRecord) : Prop :=
  (r.mappable = true → r.valid = true) ∧ (r.valid = true → r.present = true)

/-- The record is absent or was constructed by decoding some four words under the word order (R35: "constructed once …; immutable
after construction"). -/
def CalRecord.Constructed (order : WordOrder) (r : CalRecord) : Prop :=
  r = CalRecord.absent ∨ ∃ (variant : BitVec 2) (w : WordFile), r = decodeRecord order variant w

/-- The statuses a moisture or backport channel holds: codes 0 to 3 only (R39). -/
def Status.IsPowerOnly (st : Status) : Prop := st = .none ∨ st = .ok ∨ st = .powerLow ∨ st = .powerHigh

/-- The invariant of CORE. -/
structure State.Inv (s : State) : Prop where
  /-- The parameters are legal (R7). -/
  legal : s.build.Legal
  /-- The buffer has the build's capacity (R21). -/
  bufSized : BufSized s
  /-- `BITLEN` is 0 to `BUF_CAP_BITS` (R22). -/
  bitlen_le : s.bitlen ≤ s.build.capBits
  /-- Zero tail (R23). -/
  zeroTail : ZeroTail s
  /-- Bits 0, 6 and 7 of `ERR_STICKY` are always 0 (R40). -/
  sticky_reserved : s.errSticky &&& 0xC1#8 = 0#8
  /-- The latest error is among the accumulated ones (R40, R252, R263). -/
  sticky_last : ∀ e, s.lastResp = .err e → s.errSticky.getLsbD (errCode e) = true
  /-- The flags of the record (R28). -/
  consistent : s.cal.Consistent
  /-- Where the record comes from (R35). -/
  constructed : s.cal.Constructed s.build.varbWordOrder
  /-- `MOIST_STATUS` and `MOIST_VALUE` (R36, R39). -/
  moist : s.moistStatus.IsPowerOnly ∧ (s.moistStatus ≠ .ok → s.moistValue = 0#16)
  /-- `TEMP_VALUE` is 0 unless the status is `ST_OK` (R37). -/
  temp : s.tempStatus ≠ .ok → s.tempValue = 0#32
  /-- `BACK_STATUS[n]` and `BACK_VALUE[n]` (R38, R39). -/
  back : ∀ n : Fin 2, s.backStatus[n].IsPowerOnly ∧ (s.backStatus[n] ≠ .ok → s.backValue[n] = 0#16)

/-! ### Which command writes which register -/

/-- The rows of R20's table, one constructor each. -/
inductive RegGroup where
  /-- `BUF`, `BITLEN`. -/
  | packer
  /-- `MASK[0..31]`. -/
  | mask
  /-- `CRC_REG`. -/
  | crc
  /-- `CALW[0..3]`. -/
  | words
  /-- The calibration record. -/
  | record
  /-- `MOIST_STATUS`, `MOIST_VALUE`, `TEMP_STATUS`, `TEMP_VALUE`. -/
  | reading
  /-- `BACK_STATUS[0..1]`, `BACK_VALUE[0..1]`. -/
  | back
  /-- `LAST_RESP`. -/
  | lastResp
  /-- `ERR_STICKY`. -/
  | errSticky
deriving DecidableEq, Repr

/-- The two states hold the same values in a group of registers. -/
def SameGroup (s t : State) : RegGroup → Prop
  | .packer => t.buf = s.buf ∧ t.bitlen = s.bitlen
  | .mask => t.mask = s.mask
  | .crc => t.crcReg = s.crcReg
  | .words => t.calw = s.calw
  | .record => t.cal = s.cal
  | .reading => t.moistStatus = s.moistStatus ∧ t.moistValue = s.moistValue ∧ t.tempStatus = s.tempStatus ∧
      t.tempValue = s.tempValue
  | .back => t.backStatus = s.backStatus ∧ t.backValue = s.backValue
  | .lastResp => t.lastResp = s.lastResp
  | .errSticky => t.errSticky = s.errSticky

/-- The "written by" column of R20's table, read by command: `RESET` writes everything, every command writes `LAST_RESP`, and
`ERR_STICKY` is written by `CLRERR` and by a command that fails (the three that can fail are R262's). -/
def writes : Instr → List RegGroup
  | .nop => [.lastResp]
  | .reset => [.packer, .mask, .crc, .words, .record, .reading, .back, .lastResp, .errSticky]
  | .clrerr => [.lastResp, .errSticky]
  | .bbClear => [.packer, .lastResp]
  | .bbAppend _ _ => [.packer, .lastResp, .errSticky]
  | .bbEbv _ => [.packer, .lastResp, .errSticky]
  | .maskLd _ _ => [.mask, .lastResp]
  | .selBuild _ _ _ _ _ => [.packer, .lastResp, .errSticky]
  | .crcInit => [.crc, .lastResp]
  | .crcByte _ => [.crc, .lastResp]
  | .crcWord _ => [.crc, .lastResp]
  | .calLdw _ _ => [.words, .lastResp]
  | .calLdb _ _ => [.words, .lastResp]
  | .calDecode _ => [.record, .lastResp]
  | .calClear => [.record, .lastResp]
  | .classify _ _ _ => [.reading, .lastResp]
  | .clsBack _ _ _ => [.back, .lastResp]

/-- The errors a command can raise (R262). -/
def canRaise : Instr → List Err
  | .bbAppend _ _ => [.width, .range, .overflow]
  | .bbEbv _ => [.overflow]
  | .selBuild _ _ _ _ _ => [.enum, .range]
  | _ => []

/-- The registers of the encode half: packer, Select builder, CRC unit (R3). -/
def encodeHalf : List RegGroup := [.packer, .mask, .crc]

/-- The registers of the decode half: calibration decoder, status thresholder (R3). -/
def decodeHalf : List RegGroup := [.words, .record, .reading, .back]

/-- The command belongs to the packer, the Select builder or the CRC unit (R3, R93). -/
def inEncodeHalf : Instr → Bool
  | .bbClear | .bbAppend _ _ | .bbEbv _ | .maskLd _ _ | .selBuild _ _ _ _ _ | .crcInit | .crcByte _ | .crcWord _ => true
  | _ => false

/-- The command belongs to the calibration decoder or the thresholder (R3, R93). -/
def inDecodeHalf : Instr → Bool
  | .calLdw _ _ | .calLdb _ _ | .calDecode _ | .calClear | .classify _ _ _ | .clsBack _ _ _ => true
  | _ => false

/-! ### What commands append and feed -/

/-- The command is an append of the packer (R121, R122). -/
def isAppend : Instr → Bool
  | .bbAppend _ _ | .bbEbv _ => true
  | _ => false

/-- The fields an append adds to the buffer when it succeeds (R121, R122). -/
def appendedFields : Instr → List BitField
  | .bbAppend width value => [⟨width.toNat, value.toNat⟩]
  | .bbEbv value => ebvFields value.toNat
  | _ => []

/-- The number of bits of a list of fields. -/
def widthOf (fs : List BitField) : Nat := (fs.map BitField.width).sum

/-- The bytes a command feeds to the CRC unit; `CRC_WORD` counts as its two bytes (R165). -/
def fedBytes : Instr → List Byte
  | .crcByte byte => [byte]
  | .crcWord word => [word.extractLsb 15 8, word.extractLsb 7 0]
  | _ => []

/-- The operands `SEL_BUILD` accepts (R141). -/
def selectLegal (target action bank : BitVec 4) (masklen : BitVec 12) : Prop :=
  target.toNat ≤ 4 ∧ action.toNat ≤ 7 ∧ bank.toNat ≤ 3 ∧ masklen.toNat ≤ 255

/-- The primitive commands R144 gives for a Select frame with command opcode `cmdCode`, with `q` and `r` as in R141. -/
def primitiveFrame (cmdCode : BitVec 4) (m : MaskFile) (target action bank : BitVec 4) (masklen : BitVec 12)
    (pointer : Word32) : List Instr :=
  let q := masklen.toNat / 8
  let r := masklen.toNat % 8
  [.bbClear, .bbAppend 4 (cmdCode.setWidth 32), .bbAppend 3 (target.setWidth 32), .bbAppend 3 (action.setWidth 32),
    .bbAppend 2 (bank.setWidth 32), .bbEbv pointer, .bbAppend 8 (masklen.setWidth 32)] ++
  (List.range q).map (fun i => .bbAppend 8 ((maskByte m i).setWidth 32)) ++
  (if r ≠ 0 then [.bbAppend (BitVec.ofNat 6 r) (BitVec.ofNat 32 ((maskByte m q).toNat / 2 ^ (8 - r)))] else []) ++
  [.bbAppend 1 0#32]

/-- The word registers with one of their 64 bits flipped (R195). -/
def flipWordBit (w : WordFile) (i : Fin 4) (j : Fin 16) : WordFile := w.set i.val (w[i] ^^^ (1#16 <<< j.val)) i.isLt

/-- The word registers with the two words of each Variant B group exchanged (R110). -/
def swapGroupWords (w : WordFile) : WordFile := #v[w[1], w[0], w[3], w[2]]

/-- The addresses of the `REG` space that hold something (R62). -/
def mappedRegs : List Nat :=
  [0x00, 0x01, 0x02, 0x03, 0x04, 0x08, 0x09, 0x0A, 0x0B, 0x10, 0x11, 0x12, 0x13, 0x14, 0x15, 0x16, 0x17, 0x18, 0x19, 0x1A, 0x1B,
    0x20, 0x21, 0x22, 0x23, 0x24, 0x25, 0x26, 0x27]

/-- The read asks for one of the three mapping registers (R62). -/
def ReadReq.isMapping : ReadReq → Prop
  | .reg a => a = 0x19#8 ∨ a = 0x1A#8 ∨ a = 0x1B#8
  | _ => False

end Sys2Proof.Machine
end

