-- ==== Sys2Proof/Certificates/Slice0/Obligations.lean ====
section
/-! DEFINITION. The statements about CORE for the provers, from the spec's numbered rules. A statement about the effect of a command
has as its conclusion that `exec` answers a next state; `t = { s with … }` with `t`'s own values in the written registers is its
frame: every register not named there is unchanged, and so are the host's side of the ports and the build. `s.build` holds the
parameters the spec leaves OPEN (R7, R44, assumption log 1); the premise `s.build.Legal` is what R7 asks of them, and `BufSized s` that
the buffer has the capacity of R21; both are in the invariant. -/

open Sys2Proof Sys2Proof.Machine Sys2Proof.Config

/-! ### Encoding (30_encoding.md) -/

/-- R81 to R93: every command, with every operand at every value, decodes from its encoding. -/
def Obligations.EveryCommandDecodesFromItsEncoding : Prop :=
  ∀ i : Instr, decode (encode i) = .instr i

/-- R93 to R95: a command has exactly one word, so a word that decodes is the encoding of what it decodes to. -/
def Obligations.DecodedWordIsTheEncoding : Prop :=
  ∀ (w : CmdWord) (i : Instr), decode w = .instr i → encode i = w

/-- R93, R94: a word spells a command exactly when it matches a row of the opcode table, and then it is that row's command; no
word matches two rows. -/
def Obligations.DecoderAgreesWithOpcodeTable : Prop :=
  ∀ w : CmdWord,
    (∀ i, decode w = .instr i → ∃ r ∈ opcodeTable, r.matches w ∧ r.mnemonic = i.mnemonic) ∧
    (∀ r ∈ opcodeTable, r.matches w → ∃ i, decode w = .instr i ∧ i.mnemonic = r.mnemonic) ∧
    (∀ r ∈ opcodeTable, ∀ r' ∈ opcodeTable, r.matches w → r'.matches w → r = r')

/-- A sanity statement: words printed in the spec, one of each family, decode to the commands printed beside them. -/
def Obligations.PrintedWordsDecode : Prop :=
  decode 0x0000000000000000 = .instr .nop ∧
  decode 0x110C000000000004 = .instr (.bbAppend 3 4) ∧
  decode 0x19403008000000D0 = .instr (.selBuild 4 0 3 8 0xD0) ∧
  decode 0x2200000000001234 = .instr (.crcWord 0x1234) ∧
  decode 0x30000000000176C8 = .instr (.calLdw 1 0x76C8) ∧
  decode 0x4000012C000C0898 = .instr (.classify 300 12 2200) ∧
  decode 0x41000001000A0309 = .instr (.clsBack 1 10 777)

/-! ### The step, errors (00_scope.md, 60_exceptions.md) -/

/-- R9: when the oldest input is a command word that spells a command the build has, the step executes that command on the state
without the input. Every build whose EBV operand has the 32 bits of its field, the standard one among them, has every command; that a
word with a larger operand than a narrower build has only reports `ERR_ILLEGAL` is the model's choice (assumption log 1), and so is
the queue of inputs (assumption log 2). -/
def Obligations.StepRunsTheDecodedCommand : Prop :=
  (∀ (s : State) (w : CmdWord) (rest : List HostInput) (i : Instr),
    s.port.pending = .command w :: rest → decode w = .instr i →
      (presents s.build i = true → step s = exec i { s with port := { s.port with pending := rest } }) ∧
      (presents s.build i = false → step s = .next
        { s with
          lastResp := .err .illegal
          errSticky := s.errSticky ||| 0x02#8
          port := { s.port with pending := rest } })) ∧
  (∀ (b : Build) (i : Instr), 32 ≤ b.ebvValueBits → presents b i = true)

/-- R261: a word that matches no row of the opcode table changes `LAST_RESP` and bit 1 of `ERR_STICKY`, and no other register. What
becomes of the host's queue is assumption log 2's and not said here. -/
def Obligations.IllegalWordOnlyReports : Prop :=
  ∀ (s : State) (w : CmdWord) (rest : List HostInput),
    s.port.pending = .command w :: rest → (∀ r ∈ opcodeTable, ¬ r.matches w) →
      ∃ t, step s = .next t ∧
        t = { s with lastResp := .err .illegal, errSticky := s.errSticky ||| 0x02#8, port := t.port }

/-- R271: CORE never gets stuck and never faults, from any state, for any number of steps, whatever the host has issued. -/
def Obligations.EveryRunGoesOn : Prop :=
  ∀ s : State, GoesOn s

/-- R263, R265: a command responds `OK` and leaves `ERR_STICKY` alone (`CLRERR` and `RESET` clear it), or it reports one error `X`
and the state is the state before with `LAST_RESP` the error and bit `X` of `ERR_STICKY` set. -/
def Obligations.ErrorsArePreciseAndRecorded : Prop :=
  ∀ (i : Instr) (s t : State), exec i s = .next t →
    (t.lastResp = .ok ∧ (i ≠ .clrerr → i ≠ .reset → t.errSticky = s.errSticky) ∧
      (i = .clrerr ∨ i = .reset → t.errSticky = 0#8)) ∨
    ∃ e : Err, t = { s with lastResp := .err e, errSticky := s.errSticky ||| BitVec.ofNat 8 (2 ^ respCode (.err e)) }

/-- R262: which command can raise which error; every error listed for a command is raised by some operands in some state; a word
that is no command gets `ERR_ILLEGAL`, which belongs to no command. -/
def Obligations.EachCommandRaisesOnlyItsErrors : Prop :=
  (∀ (i : Instr) (s : State), ∃ t, exec i s = .next t ∧ (t.lastResp = .ok ∨ ∃ e ∈ canRaise i, t.lastResp = .err e)) ∧
  (∀ e ∈ [Err.width, Err.range, Err.overflow], ∃ width value s t,
    exec (.bbAppend width value) s = .next t ∧ t.lastResp = .err e) ∧
  (∃ value s t, exec (.bbEbv value) s = .next t ∧ t.lastResp = .err .overflow) ∧
  (∀ e ∈ [Err.enum, Err.range], ∃ target action bank masklen pointer s t,
    exec (.selBuild target action bank masklen pointer) s = .next t ∧ t.lastResp = .err e) ∧
  (∀ (s : State) (w : CmdWord) (rest : List HostInput) (why : Illegal),
    s.port.pending = .command w :: rest → decode w = .illegal why → ∃ t, step s = .next t ∧ t.lastResp = .err .illegal)

/-- R264: the first error a command's checks reach is the one reported, in the fixed order. -/
def Obligations.FirstFailingCheckIsReported : Prop :=
  (∀ (s : State) (w : CmdWord) (rest : List HostInput), s.port.pending = .command w :: rest →
    (∃ r ∈ opcodeTable, w &&& 0xFF00000000000000 = r.pattern ∧ ¬ r.matches w) →
      ∃ t, step s = .next t ∧ t.lastResp = .err .illegal) ∧
  (∀ (width : BitVec 6) (value : Word32) (s : State), ∃ t, exec (.bbAppend width value) s = .next t ∧
    t.lastResp =
      if width.toNat < 1 ∨ width.toNat > 32 then .err .width
      else if value.toNat ≥ 2 ^ width.toNat then .err .range
      else if s.bitlen + width.toNat > s.build.capBits then .err .overflow
      else .ok) ∧
  (∀ (value : Word32) (s : State), ∃ t, exec (.bbEbv value) s = .next t ∧
    t.lastResp = if s.bitlen + 8 * (ebvGroups value.toNat).length > s.build.capBits then .err .overflow else .ok) ∧
  (∀ (target action bank : BitVec 4) (masklen : BitVec 12) (pointer : Word32) (s : State),
    ∃ t, exec (.selBuild target action bank masklen pointer) s = .next t ∧
      t.lastResp =
        if target.toNat > 4 then .err .enum
        else if action.toNat > 7 then .err .enum
        else if bank.toNat > 3 then .err .range
        else if masklen.toNat > 255 then .err .range
        else .ok)

/-- R20, R44: each register is written only by the commands of its row (and by `RESET`); every other command leaves it unchanged,
and no command changes a parameter. That the host's side of the ports is no register and no command touches it is the model's choice
(assumption log 2). -/
def Obligations.RegistersAreWrittenOnlyByTheirCommands : Prop :=
  ∀ (i : Instr) (s t : State), exec i s = .next t →
    t.port = s.port ∧ t.build = s.build ∧ ∀ g : RegGroup, g ∉ writes i → SameGroup s t g

/-- R3: a command of one half leaves the other half as it was, and what it does to its own half does not depend on the other
half: two states of one build that agree on its own half are enough. -/
def Obligations.TheTwoHalvesAreIndependent : Prop :=
  ∀ (i : Instr) (own other : List RegGroup),
    (inEncodeHalf i = true ∧ own = encodeHalf ∧ other = decodeHalf) ∨
      (inDecodeHalf i = true ∧ own = decodeHalf ∧ other = encodeHalf) →
    ∀ s t s' t' : State, exec i s = .next t → exec i s' = .next t' →
      (∀ g ∈ other, SameGroup s t g) ∧
      (s.build = s'.build → (∀ g ∈ own, SameGroup s s' g) → (∀ g ∈ own, SameGroup t t' g) ∧ t.lastResp = t'.lastResp)

/-! ### Reset and housekeeping (10_state.md, 46_control.md, 70_reset_and_hazards.md) -/

/-- R45: the reset value of every register, in every build; the mapping registers are UNSPECIFIED, so a read of them may answer
anything. `State.reset` is the reset state of the build whose parameters have their defaults (R7). -/
def Obligations.ResetValues : Prop :=
  State.reset = State.resetOf ⟨512, 32, 0b1010#4, .codeFirst⟩ ∧
  ∀ b : Build,
  let s := State.resetOf b
  s.build = b ∧ BufSized s ∧ (∀ k, bufBit s.buf k = false) ∧ s.bitlen = 0 ∧ (∀ i : Fin 32, s.mask[i] = 0#8) ∧
  s.crcReg = 0xFFFF#16 ∧ crcOut s = 0#16 ∧ (∀ i : Fin 4, s.calw[i] = 0#16) ∧
  s.cal.present = false ∧ s.cal.valid = false ∧ s.cal.mappable = false ∧ s.cal.variant = 0#2 ∧
  s.cal.code1 = 0#16 ∧ s.cal.temp1 = 0#11 ∧ s.cal.code2 = 0#16 ∧ s.cal.temp2 = 0#11 ∧
  s.cal.fmt1 = 0#3 ∧ s.cal.fmt2 = 0#3 ∧ s.cal.chkStored = 0#16 ∧ s.cal.chkCalc = 0#16 ∧
  (∀ (v : Word32) (r : ReadReq), r.isMapping → hostRead r v s = .word v) ∧
  s.moistStatus = .none ∧ s.tempStatus = .none ∧ (∀ n : Fin 2, s.backStatus[n] = .none) ∧
  s.moistValue = 0#16 ∧ s.tempValue = 0#32 ∧ (∀ n : Fin 2, s.backValue[n] = 0#16) ∧
  s.lastResp = .ok ∧ s.errSticky = 0#8

/-- R250: `NOP` is the all-zero word; it sets `LAST_RESP` to `OK` and changes nothing else. -/
def Obligations.NopOnlyAnswersOk : Prop :=
  (∀ w : CmdWord, decode w = .instr .nop ↔ w = 0x0000000000000000) ∧
  (∀ w : CmdWord, opcodeOf w = 0x00#8 → w ≠ 0 → ∃ why, decode w = .illegal why) ∧
  (∀ s : State, exec .nop s = .next { s with lastResp := .ok })

/-- R251, R290: `RESET` is one word; it and the hardware reset input have the same effect, whatever the state they find: every
register of R20's table takes its reset value, and the parameters of the build, which are no state, stay. -/
def Obligations.BothResetsGiveTheResetState : Prop :=
  (∀ w : CmdWord, decode w = .instr .reset ↔ w = 0x0100000000000000) ∧
  (∀ s : State, ∃ t, exec .reset s = .next t ∧ t.build = s.build ∧
    ∀ g : RegGroup, SameGroup (State.resetOf s.build) t g) ∧
  (∀ (s : State) (rest : List HostInput), s.port.pending = .reset :: rest →
    ∃ t, step s = .next t ∧ t.build = s.build ∧ ∀ g : RegGroup, SameGroup (State.resetOf s.build) t g)

/-- R252: `CLRERR` is one word; it clears `ERR_STICKY`, sets `LAST_RESP` to `OK`, and changes nothing else. -/
def Obligations.ClrerrClearsOnlyTheErrorBits : Prop :=
  (∀ w : CmdWord, decode w = .instr .clrerr ↔ w = 0x0200000000000000) ∧
  (∀ s : State, exec .clrerr s = .next { s with errSticky := 0#8, lastResp := .ok })

/-! ### The bitfield packer (41_bitfield_packer.md) -/

/-- R120: `BB_CLEAR` is one word; afterwards every bit of the buffer is 0 and `BITLEN` is 0; nothing else changes. -/
def Obligations.BbClearEmptiesTheBuffer : Prop :=
  (∀ w : CmdWord, decode w = .instr .bbClear ↔ w = 0x1000000000000000) ∧
  (∀ w : CmdWord, opcodeOf w = 0x10#8 → w ≠ 0x1000000000000000 → ∃ why, decode w = .illegal why) ∧
  (∀ s : State, ∃ t, exec .bbClear s = .next t ∧ (∀ k, bufBit t.buf k = false) ∧ t.bitlen = 0 ∧
    t = { s with buf := t.buf, bitlen := t.bitlen, lastResp := .ok })

/-- R121, R123: a `BB_APPEND` whose width is legal, whose value fits and whose field fits the buffer writes the field at `BITLEN`,
most significant bit first, advances `BITLEN` by the width, and changes no other bit and no other register. -/
def Obligations.BbAppendWritesTheField : Prop :=
  ∀ (width : BitVec 6) (value : Word32) (s : State), s.build.Legal → BufSized s →
    1 ≤ width.toNat → width.toNat ≤ 32 → value.toNat < 2 ^ width.toNat → s.bitlen + width.toNat ≤ s.build.capBits →
      ∃ t, exec (.bbAppend width value) s = .next t ∧
        t.bitlen = s.bitlen + width.toNat ∧
        (∀ i, i < width.toNat → bufBit t.buf (s.bitlen + i) = value.getLsbD (width.toNat - 1 - i)) ∧
        (∀ k, k < s.bitlen ∨ t.bitlen ≤ k → bufBit t.buf k = bufBit s.buf k) ∧
        t = { s with buf := t.buf, bitlen := t.bitlen, lastResp := .ok }

/-- R122: a `BB_EBV` whose groups fit the buffer writes them at `BITLEN`, each most significant bit first, and changes no other
bit and no other register; one that does not fit writes nothing. -/
def Obligations.BbEbvWritesAllGroupsOrNone : Prop :=
  ∀ (value : Word32) (s : State),
    (s.build.Legal → BufSized s → s.bitlen + 8 * (ebvGroups value.toNat).length ≤ s.build.capBits →
      ∃ t, exec (.bbEbv value) s = .next t ∧
        t.bitlen = s.bitlen + 8 * (ebvGroups value.toNat).length ∧
        (∀ (j b : Nat) (g : Byte), (ebvGroups value.toNat)[j]? = some g → b < 8 →
          bufBit t.buf (s.bitlen + 8 * j + b) = g.getLsbD (7 - b)) ∧
        (∀ k, k < s.bitlen ∨ t.bitlen ≤ k → bufBit t.buf k = bufBit s.buf k) ∧
        t = { s with buf := t.buf, bitlen := t.bitlen, lastResp := .ok }) ∧
    (s.bitlen + 8 * (ebvGroups value.toNat).length > s.build.capBits →
      exec (.bbEbv value) s = .next { s with lastResp := .err .overflow, errSticky := s.errSticky ||| 0x20#8 })

/-- R102: the EBV encoding of a non-negative integer has the minimum number of groups, the 7-bit digits most significant first, and
the continuation flag on every group but the last. With a 32-bit value there are 1 to 5 groups, by the stated boundaries. -/
def Obligations.EbvGroupsAreTheMinimalDigits : Prop :=
  ∀ v : Nat,
    (ebvGroups v).length = max 1 ((Nat.size v + 6) / 7) ∧
    (∀ j, j < (ebvGroups v).length → ∃ g, (ebvGroups v)[j]? = some g ∧
      g.getLsbD 7 = decide (j < (ebvGroups v).length - 1) ∧
      g.toNat % 128 = v / 128 ^ ((ebvGroups v).length - 1 - j) % 128) ∧
    (v ≠ 0 → ∃ g, (ebvGroups v)[0]? = some g ∧ g.toNat % 128 ≠ 0) ∧
    ebvGroups 0 = [0x00#8] ∧
    ebvWidth v = 8 * (ebvGroups v).length ∧
    (v < 2 ^ 32 → (ebvGroups v).length =
      if v ≤ 127 then 1 else if v ≤ 16383 then 2 else if v ≤ 2097151 then 3 else if v ≤ 268435455 then 4 else 5)

/-- R103: for every non-negative integer, decoding its EBV encoding, whatever follows it, gives the value back and consumes exactly
the encoding; the decoder also accepts encodings with leading `0x80` groups, and the encoder never writes one: the first group of an
encoding is never `0x80`. -/
def Obligations.EbvDecodeReadsBackTheValue : Prop :=
  ∀ (v : Nat) (rest : List Bool),
    (bitsOf (ebvFields v)).length = ebvWidth v ∧ ebvDecode (bitsOf (ebvFields v) ++ rest) = some (v, rest) ∧
    (∀ k : Nat, ebvDecode (bitsOf (List.replicate k ⟨8, 0x80⟩ ++ ebvFields v) ++ rest) = some (v, rest)) ∧
    (ebvGroups v)[0]? ≠ some 0x80#8

/-- R125, R126: after appends that all succeed, the buffer's content is what it was, followed by the bit strings of the appended
fields in order of issue, followed by zeros; `BITLEN` has grown by the sum of their widths, and nothing else has changed. -/
def Obligations.PackedContentIsTheConcatenation : Prop :=
  ∀ (is : List Instr) (s t : State), s.build.Legal → BufSized s → (∀ i ∈ is, isAppend i = true) → ZeroTail s →
    s.bitlen ≤ s.build.capBits → runOk is s = some t →
      content t = content s ++ bitsOf (is.flatMap appendedFields) ∧ ZeroTail t ∧
      t.bitlen = s.bitlen + widthOf (is.flatMap appendedFields) ∧
      t = { s with buf := t.buf, bitlen := t.bitlen, lastResp := t.lastResp }

/-- R127: a field equals its two parts appended one after the other; in particular it equals its bits, appended one by one. -/
def Obligations.AFieldEqualsItsParts : Prop :=
  (∀ (s : State) (v w1 w2 : Nat), 1 ≤ w1 → 1 ≤ w2 → w1 + w2 ≤ 32 → v < 2 ^ (w1 + w2) →
    s.bitlen + (w1 + w2) ≤ s.build.capBits →
      put s ⟨w1 + w2, v⟩ = put (put s ⟨w1, v / 2 ^ w2⟩) ⟨w2, v % 2 ^ w2⟩) ∧
  (∀ (s : State) (v w : Nat), 1 ≤ w → w ≤ 32 → v < 2 ^ w → s.bitlen + w ≤ s.build.capBits →
    put s ⟨w, v⟩ = putAll s ((List.range w).map fun i => ⟨1, v / 2 ^ (w - 1 - i) % 2⟩))

/-! ### The Select builder (42_select_builder.md) -/

/-- R140: `MASK_LD` writes one mask byte and nothing else. -/
def Obligations.MaskLdWritesOneByte : Prop :=
  ∀ (idx : BitVec 5) (byte : Byte) (s : State), ∃ t, exec (.maskLd idx byte) s = .next t ∧
    (∀ i : Fin 32, t.mask[i] = if i.val = idx.toNat then byte else s.mask[i]) ∧
    t = { s with mask := t.mask, lastResp := .ok }

/-- R104, R141, R142: with legal operands `SEL_BUILD` leaves exactly the Select frame in the buffer, zeros after it, and changes
nothing else; the previous content does not matter. -/
def Obligations.SelBuildBuildsTheFrame : Prop :=
  ∀ (target action bank : BitVec 4) (masklen : BitVec 12) (pointer : Word32) (s : State),
    s.build.Legal → selectLegal target action bank masklen →
      ∃ t, exec (.selBuild target action bank masklen pointer) s = .next t ∧
        content t =
          BitField.bits ⟨4, s.build.selectCmdCode.toNat⟩ ++ BitField.bits ⟨3, target.toNat⟩ ++
          BitField.bits ⟨3, action.toNat⟩ ++ BitField.bits ⟨2, bank.toNat⟩ ++ (ebvGroups pointer.toNat).flatMap (fun g => BitField.bits ⟨8, g.toNat⟩) ++
          BitField.bits ⟨8, masklen.toNat⟩ ++ maskBits s.mask masklen.toNat ++ [false] ∧
        ZeroTail t ∧
        t = { s with buf := t.buf, bitlen := t.bitlen, lastResp := .ok }

/-- R143: the length of a Select frame, its minimum and its maximum. -/
def Obligations.SelectFrameLength : Prop :=
  ∀ (target action bank : BitVec 4) (masklen : BitVec 12) (pointer : Word32) (s : State),
    selectLegal target action bank masklen →
      ∃ t, exec (.selBuild target action bank masklen pointer) s = .next t ∧
        t.bitlen = 4 + 3 + 3 + 2 + ebvWidth pointer.toNat + 8 + masklen.toNat + 1 ∧
        t.bitlen = 21 + 8 * (ebvGroups pointer.toNat).length + masklen.toNat ∧
        1 ≤ (ebvGroups pointer.toNat).length ∧ (ebvGroups pointer.toNat).length ≤ 5 ∧
        29 ≤ t.bitlen ∧ t.bitlen ≤ 316 ∧
        (t.bitlen = 29 ↔ pointer.toNat ≤ 127 ∧ masklen.toNat = 0) ∧
        (t.bitlen = 316 ↔ 268435455 < pointer.toNat ∧ masklen.toNat = 255)

/-- R144: a successful `SEL_BUILD` has the effect of the sequence of primitive commands; a failing one leaves the buffer as it
was, where the sequence may leave a partial frame. -/
def Obligations.SelBuildEqualsThePrimitiveCommands : Prop :=
  (∀ (target action bank : BitVec 4) (masklen : BitVec 12) (pointer : Word32) (s : State),
    (s.build.Legal → selectLegal target action bank masklen →
      ∃ t, exec (.selBuild target action bank masklen pointer) s = .next t ∧
        runCommands (primitiveFrame s.build.selectCmdCode s.mask target action bank masklen pointer) s = .next t) ∧
    (¬ selectLegal target action bank masklen →
      ∃ t, exec (.selBuild target action bank masklen pointer) s = .next t ∧ t.buf = s.buf ∧ t.bitlen = s.bitlen)) ∧
  (∃ (target action bank : BitVec 4) (masklen : BitVec 12) (pointer : Word32) (s t : State),
    s.build.Legal ∧ ¬ selectLegal target action bank masklen ∧
    runCommands (primitiveFrame s.build.selectCmdCode s.mask target action bank masklen pointer) s = .next t ∧
    t.bitlen ≠ s.bitlen)

/-- R145: parsing the frame of a successful `SEL_BUILD` gives back the operands, the mask bits and truncate 0. -/
def Obligations.SelectFrameParsesBack : Prop :=
  ∀ (target action bank : BitVec 4) (masklen : BitVec 12) (pointer : Word32) (s : State),
    s.build.Legal → selectLegal target action bank masklen →
      ∃ t, exec (.selBuild target action bank masklen pointer) s = .next t ∧
        selectParse s.build.selectCmdCode (content t) =
          some
            { target := target.toNat
              action := action.toNat
              bank := bank.toNat
              pointer := pointer.toNat
              masklen := masklen.toNat
              mask := maskBits s.mask masklen.toNat
              truncate := false }

/-- R146: in one build, two mask files that agree on the first `masklen` bits give identical frames. -/
def Obligations.TrailingMaskBitsAreIgnored : Prop :=
  ∀ (target action bank : BitVec 4) (masklen : BitVec 12) (pointer : Word32) (s s' t t' : State),
    s.build = s'.build → selectLegal target action bank masklen →
    (∀ j, j < masklen.toNat → maskBit s.mask j = maskBit s'.mask j) →
    exec (.selBuild target action bank masklen pointer) s = .next t →
    exec (.selBuild target action bank masklen pointer) s' = .next t' →
      t.buf = t'.buf ∧ t.bitlen = t'.bitlen

/-! ### The CRC-16 validator (43_crc16.md) -/

/-- R160, R161, R162: what the three CRC commands do to `CRC_REG`; nothing else changes. -/
def Obligations.CrcCommandsUpdateTheRegister : Prop :=
  (∀ s : State, exec .crcInit s = .next { s with crcReg := 0xFFFF#16, lastResp := .ok }) ∧
  (∀ (byte : Byte) (s : State),
    exec (.crcByte byte) s = .next { s with crcReg := crc16Update s.crcReg byte, lastResp := .ok }) ∧
  (∀ (word : Word16) (s : State),
    exec (.crcWord word) s = .next
      { s with
        crcReg := crc16Update (crc16Update s.crcReg (word.extractLsb 15 8)) (word.extractLsb 7 0)
        lastResp := .ok } ∧
    exec (.crcWord word) s = runCommands [.crcByte (word.extractLsb 15 8), .crcByte (word.extractLsb 7 0)] s)

/-- R165: after `CRC_INIT`, whatever commands follow (but another `CRC_INIT` or a reset), `CRC_OUT` is the CRC-16 of the bytes fed,
in order. -/
def Obligations.CrcOutIsTheCrcOfTheStream : Prop :=
  ∀ (is : List Instr) (s : State), Instr.reset ∉ is → Instr.crcInit ∉ is →
    ∃ t, runCommands (.crcInit :: is) s = .next t ∧ crcOut t = crc16 (is.flatMap fedBytes)

/-- R167: feeding a message and then its own CRC, high byte first, leaves the register at `0x1D0F`. -/
def Obligations.CrcResidueIsConstant : Prop :=
  ∀ m : List Byte,
    crc16Feed 0xFFFF#16 (m ++ [(crc16 m).extractLsb 15 8, (crc16 m).extractLsb 7 0]) = 0x1D0F#16 ∧
    crc16Feed 0xFFFF#16 (m ++ [(crc16 m).extractLsb 15 8, (crc16 m).extractLsb 7 0]) ^^^ 0xFFFF#16 = 0xE2F0#16

/-- R168: two byte sequences of the same length that differ in exactly one bit have different CRCs. -/
def Obligations.OneFlippedBitChangesTheCrc : Prop :=
  ∀ (before after : List Byte) (byte : Byte) (j : Fin 8),
    crc16 (before ++ [byte] ++ after) ≠ crc16 (before ++ [byte ^^^ (1#8 <<< j.val)] ++ after)

/-! ### The calibration decoder (20_memory.md, 44_calibration_decoder.md) -/

/-- R180: `CAL_LDW` writes one word register and nothing else, not the record. -/
def Obligations.CalLdwWritesOneWord : Prop :=
  ∀ (idx : BitVec 2) (word : Word16) (s : State), ∃ t, exec (.calLdw idx word) s = .next t ∧
    (∀ i : Fin 4, t.calw[i] = if i.val = idx.toNat then word else s.calw[i]) ∧
    t = { s with calw := t.calw, lastResp := .ok }

/-- R181: `CAL_LDB` writes one byte of the 8-byte big-endian image of the word registers and nothing else; loading bytes 0 to 7
leaves `BytesToWords` of them in the word registers. -/
def Obligations.CalLdbWritesOneByteOfTheImage : Prop :=
  (∀ (idx : BitVec 3) (byte : Byte) (s : State), ∃ t, exec (.calLdb idx byte) s = .next t ∧
    (∀ j, j < 8 → (wordsToBytes t.calw.toList)[j]? =
      if j = idx.toNat then some byte else (wordsToBytes s.calw.toList)[j]?) ∧
    t = { s with calw := t.calw, lastResp := .ok }) ∧
  (∀ (b0 b1 b2 b3 b4 b5 b6 b7 : Byte) (s : State),
    ∃ t, runCommands [.calLdb 0 b0, .calLdb 1 b1, .calLdb 2 b2, .calLdb 3 b3, .calLdb 4 b4, .calLdb 5 b5, .calLdb 6 b6,
        .calLdb 7 b7] s = .next t ∧
      bytesToWords [b0, b1, b2, b3, b4, b5, b6, b7] = some t.calw.toList)

/-- R69: the conversion between bytes and words loses nothing, either way. -/
def Obligations.BytesAndWordsRoundTrip : Prop :=
  (∀ b : List Byte, b.length % 2 = 0 → (bytesToWords b).map wordsToBytes = some b) ∧
  (∀ w : List Word16, bytesToWords (wordsToBytes w) = some w)

/-- R182: `CAL_CLEAR` makes the record absent, every field of it 0 and the mapping registers UNSPECIFIED; `CALW` and everything
else stay. -/
def Obligations.CalClearMakesTheRecordAbsent : Prop :=
  ∀ s : State, ∃ t, exec .calClear s = .next t ∧
    t.cal.present = false ∧ t.cal.valid = false ∧ t.cal.mappable = false ∧ t.cal.variant = 0#2 ∧
    t.cal.code1 = 0#16 ∧ t.cal.temp1 = 0#11 ∧ t.cal.code2 = 0#16 ∧ t.cal.temp2 = 0#11 ∧
    t.cal.fmt1 = 0#3 ∧ t.cal.fmt2 = 0#3 ∧ t.cal.chkStored = 0#16 ∧ t.cal.chkCalc = 0#16 ∧
    (∀ (v : Word32) (r : ReadReq), r.isMapping → hostRead r v t = .word v) ∧
    t = { s with cal := t.cal, lastResp := .ok }

/-- R183, R184, R197: `CAL_DECODE` never fails, whatever the words and the variant; it makes a record present, takes nothing from
the earlier record or from `CRC_REG`, and changes nothing but the record. -/
def Obligations.CalDecodeNeverFails : Prop :=
  ∀ (variant : BitVec 2) (s : State), ∃ t, exec (.calDecode variant) s = .next t ∧
    t.cal.present = true ∧ t.cal.variant = variant ∧
    (∀ (s' t' : State), s'.build = s.build → s'.calw = s.calw → exec (.calDecode variant) s' = .next t' → t'.cal = t.cal) ∧
    t = { s with cal := t.cal, lastResp := .ok }

/-- R109, R185: Variant A's fields are the five fields of the 48-bit string `word1 ‖ word2 ‖ word3`; the stored check is word 0. -/
def Obligations.VariantAFieldsOfTheBitString : Prop :=
  ∀ s : State, ∃ t, exec (.calDecode 0#2) s = .next t ∧
    let str : BitVec 48 := s.calw[1] ++ s.calw[2] ++ s.calw[3]
    t.cal.code1.toNat = (str.extractLsb 47 36).toNat ∧
    t.cal.temp1.toNat = (str.extractLsb 35 25).toNat ∧
    t.cal.code2.toNat = (str.extractLsb 24 13).toNat ∧
    t.cal.temp2.toNat = (str.extractLsb 12 2).toNat ∧
    t.cal.fmt1.toNat = (str.extractLsb 1 0).toNat ∧
    t.cal.fmt2 = 0#3 ∧
    t.cal.chkStored = s.calw[0] ∧
    t.cal.chkCalc = crc16 (wordsToBytes [s.calw[1], s.calw[2], s.calw[3]])

/-- R196: a Variant A record is valid if and only if word 0 is the CRC-16 of the bytes of words 1 to 3 and the version bits
are 0. -/
def Obligations.VariantAValidity : Prop :=
  ∀ s t : State, exec (.calDecode 0#2) s = .next t →
    (t.cal.valid = true ↔
      s.calw[0] = crc16 (wordsToBytes [s.calw[1], s.calw[2], s.calw[3]]) ∧ s.calw[3].extractLsb 1 0 = 0#2)

/-- R110, R188, R189: Variant B's fields, its stored and expected parities and its validity, in a build with the code word first; a
build with the other word order decodes what this one decodes from the words of each group exchanged. -/
def Obligations.VariantBFieldsAndValidity : Prop :=
  (∀ s : State, s.build.varbWordOrder = .codeFirst → ∃ t, exec (.calDecode 1#2) s = .next t ∧
    t.cal.code1 = s.calw[0] ∧ t.cal.code2 = s.calw[2] ∧
    t.cal.fmt1.toNat = s.calw[1].toNat / 2 ^ 13 ∧ t.cal.fmt2.toNat = s.calw[3].toNat / 2 ^ 13 ∧
    t.cal.temp1.toNat = s.calw[1].toNat % 2 ^ 11 ∧ t.cal.temp2.toNat = s.calw[3].toNat % 2 ^ 11 ∧
    t.cal.chkStored.toNat = s.calw[1].toNat / 2 ^ 11 % 4 * 4 + s.calw[3].toNat / 2 ^ 11 % 4 ∧
    t.cal.chkCalc.toNat =
      ((popcount t.cal.fmt1 + popcount t.cal.temp1) % 2 * 2 + popcount t.cal.code1 % 2) * 4 +
      ((popcount t.cal.fmt2 + popcount t.cal.temp2) % 2 * 2 + popcount t.cal.code2 % 2) ∧
    (t.cal.valid = true ↔ t.cal.fmt1 = 0#3 ∧ t.cal.fmt2 = 0#3 ∧ t.cal.chkStored = t.cal.chkCalc)) ∧
  (∀ s s' : State, s.build.varbWordOrder = .fptFirst → s'.build.varbWordOrder = .codeFirst →
    s'.calw = swapGroupWords s.calw →
      ∃ t t', exec (.calDecode 1#2) s = .next t ∧ exec (.calDecode 1#2) s' = .next t' ∧ t.cal = t'.cal)

/-- R190: a reserved variant gives a present, invalid record with all fields 0; a classification after it never reports a
temperature, and with power and code in range reports the calibration invalid. -/
def Obligations.ReservedVariantsGiveAnInvalidRecord : Prop :=
  ∀ (variant : BitVec 2) (s : State), variant = 2#2 ∨ variant = 3#2 →
    ∃ t, exec (.calDecode variant) s = .next t ∧
      t.cal.present = true ∧ t.cal.valid = false ∧ t.cal.mappable = false ∧ t.cal.variant = variant ∧
      t.cal.code1 = 0#16 ∧ t.cal.temp1 = 0#11 ∧ t.cal.code2 = 0#16 ∧ t.cal.temp2 = 0#11 ∧
      t.cal.fmt1 = 0#3 ∧ t.cal.fmt2 = 0#3 ∧ t.cal.chkStored = 0#16 ∧ t.cal.chkCalc = 0#16 ∧
      (∀ moist ocrssi temp : Word16, ∃ u, exec (.classify moist ocrssi temp) t = .next u ∧
        u.tempStatus ≠ .ok ∧ u.tempValue = 0#32 ∧
        (5 ≤ ocrssi.toNat → ocrssi.toNat ≤ 18 → 1000 ≤ temp.toNat → temp.toNat ≤ 3500 → u.tempStatus = .calInvalid)) ∧
      t = { s with cal := t.cal, lastResp := .ok }

/-- R192: of every record, however CORE came by it, a mapping exists exactly when the record is valid and the two codes differ; a
valid record without a mapping is treated as invalid calibration. -/
def Obligations.MappableExactlyWhenValidAndCodesDiffer : Prop :=
  (∀ (order : WordOrder) (r : CalRecord), r.Constructed order → (r.mappable = true ↔ r.valid = true ∧ r.code2 ≠ r.code1)) ∧
  (∀ (variant : BitVec 2) (s : State), ∃ t, exec (.calDecode variant) s = .next t ∧
    t.cal.Constructed s.build.varbWordOrder) ∧
  (∀ (order : WordOrder) (moist ocrssi temp : Word16) (s : State), s.cal.Constructed order → s.cal.valid = true →
    s.cal.code2 = s.cal.code1 → 5 ≤ ocrssi.toNat → ocrssi.toNat ≤ 18 → 1000 ≤ temp.toNat → temp.toNat ≤ 3500 →
      ∃ t, exec (.classify moist ocrssi temp) s = .next t ∧ t.tempStatus = .calInvalid ∧ t.tempValue = 0#32)

/-- R187, R191: the mapping registers after `CAL_DECODE`, as exact integers: 32 bits lose nothing. -/
def Obligations.MappingRegistersAreExact : Prop :=
  ∀ (variant : BitVec 2) (s t : State) (m : Mapping), exec (.calDecode variant) s = .next t → t.cal.mapping = some m →
    let dc : Int := (t.cal.code2.toNat : Int) - t.cal.code1.toNat
    let dt : Int := (t.cal.temp2.toNat : Int) - t.cal.temp1.toNat
    (variant = 0#2 ∧ m.slopeNum.toInt = dt ∧ m.den.toInt = 10 * dc ∧
      m.offNum.toInt = ((t.cal.temp1.toNat : Int) - 800) * dc - dt * t.cal.code1.toNat) ∨
    (variant = 1#2 ∧ m.slopeNum.toInt = 16 * dt ∧ m.den.toInt = 10 * dc ∧
      m.offNum.toInt = ((t.cal.temp1.toNat : Int) - 600) * dc - dt * t.cal.code1.toNat)

/-- R193: the ranges of the mapping registers; the denominator is not 0. -/
def Obligations.MappingRanges : Prop :=
  ∀ (variant : BitVec 2) (s t : State) (m : Mapping), exec (.calDecode variant) s = .next t → t.cal.mapping = some m →
    (variant = 0#2 → m.slopeNum.toInt.natAbs ≤ 2047 ∧ 10 ≤ m.den.toInt.natAbs ∧ m.den.toInt.natAbs ≤ 40950 ∧
      m.offNum.toInt.natAbs ≤ 13488930) ∧
    (variant = 1#2 → m.slopeNum.toInt.natAbs ≤ 32752 ∧ 10 ≤ m.den.toInt.natAbs ∧ m.den.toInt.natAbs ≤ 655350 ∧
      m.offNum.toInt.natAbs ≤ 228979290)

/-- R194: the mapping passes through the two reference points, exactly, in the rationals. -/
def Obligations.MappingInterpolatesTheReferencePairs : Prop :=
  ∀ (variant : BitVec 2) (s t : State) (m : Mapping), exec (.calDecode variant) s = .next t → t.cal.mapping = some m →
    let slope : ℚ := (m.slopeNum.toInt : ℚ) / m.den.toInt
    let offset : ℚ := (m.offNum.toInt : ℚ) / m.den.toInt
    (variant = 0#2 →
      slope * t.cal.code1.toNat + offset = (t.cal.temp1.toNat : ℚ) / 10 - 80 ∧
      slope * t.cal.code2.toNat + offset = (t.cal.temp2.toNat : ℚ) / 10 - 80) ∧
    (variant = 1#2 →
      slope * ((t.cal.code1.toNat : ℚ) / 16) + offset = (t.cal.temp1.toNat : ℚ) / 10 - 60 ∧
      slope * ((t.cal.code2.toNat : ℚ) / 16) + offset = (t.cal.temp2.toNat : ℚ) / 10 - 60)

/-- R195: from words that decode to a valid record, flipping any one of the 64 bits and decoding again with the same variant
gives an invalid record. -/
def Obligations.AnyFlippedBitInvalidatesTheRecord : Prop :=
  ∀ (variant : BitVec 2) (s t t' : State) (i : Fin 4) (j : Fin 16),
    exec (.calDecode variant) s = .next t → t.cal.valid = true →
    exec (.calDecode variant) { s with calw := flipWordBit s.calw i j } = .next t' →
      t'.cal.valid = false

/-! ### The status thresholder (45_status_thresholder.md) -/

/-- R220, R221: `CLASSIFY` writes both channels and nothing else; the moisture channel by its table. -/
def Obligations.ClassifyMoistureChannel : Prop :=
  ∀ (moist ocrssi temp : Word16) (s : State), ∃ t, exec (.classify moist ocrssi temp) s = .next t ∧
    (ocrssi.toNat < 5 → t.moistStatus = .powerLow ∧ t.moistValue = 0#16) ∧
    (ocrssi.toNat > 21 → t.moistStatus = .powerHigh ∧ t.moistValue = 0#16) ∧
    (5 ≤ ocrssi.toNat ∧ ocrssi.toNat ≤ 21 → t.moistValue = moist) ∧
    (t.moistStatus = .ok ↔ 5 ≤ ocrssi.toNat ∧ ocrssi.toNat ≤ 21) ∧
    t = { s with
      moistStatus := t.moistStatus
      moistValue := t.moistValue
      tempStatus := t.tempStatus
      tempValue := t.tempValue
      lastResp := .ok }

/-- R222: the six branches of the temperature channel, tested in this order; a valid record without a mapping is reported as
invalid calibration. The premise is R28's, an invariant of CORE. -/
def Obligations.ClassifyTemperaturePrecedence : Prop :=
  ∀ (moist ocrssi temp : Word16) (s : State), s.cal.Consistent →
    ∃ t, exec (.classify moist ocrssi temp) s = .next t ∧
      (t.tempStatus =
        if ocrssi.toNat < 5 then .powerLow
        else if ocrssi.toNat > 18 then .powerHigh
        else if temp.toNat < 1000 ∨ temp.toNat > 3500 then .badRead
        else if s.cal.present = false then .calAbsent
        else if s.cal.valid = false ∨ s.cal.mappable = false then .calInvalid
        else .ok) ∧
      (t.tempStatus = .ok ↔
        (5 ≤ ocrssi.toNat ∧ ocrssi.toNat ≤ 18) ∧ (1000 ≤ temp.toNat ∧ temp.toNat ≤ 3500) ∧ s.cal.mappable = true) ∧
      (t.tempStatus ≠ .ok → t.tempValue = 0#32) ∧
      (∀ m, s.cal.mapping = some m → m.den ≠ 0#32 → t.tempStatus = .ok →
        t.tempValue = BitVec.ofInt 32 (round100 (m.slopeNum.toInt * temp.toNat + m.offNum.toInt) m.den.toInt))

/-- R223: `Round100` gives the integer nearest to `100·num/den`, and of two equally near the one farther from 0. -/
def Obligations.RoundingIsToNearestTiesAway : Prop :=
  ∀ num den : Int, den ≠ 0 →
    2 * |round100 num den * den - 100 * num| ≤ |den| ∧
    (2 * |round100 num den * den - 100 * num| = |den| → |100 * num| < |round100 num den * den|)

/-- R223: with a record some words decode to, the reported temperature is the exact rounded value of the mapping, within the
stated bounds: 32 bits lose nothing. -/
def Obligations.TemperatureValueIsExact : Prop :=
  ∀ (order : WordOrder) (moist ocrssi temp : Word16) (s : State) (m : Mapping),
    s.cal.Constructed order → s.cal.mapping = some m →
    5 ≤ ocrssi.toNat → ocrssi.toNat ≤ 18 → 1000 ≤ temp.toNat → temp.toNat ≤ 3500 →
      ∃ t, exec (.classify moist ocrssi temp) s = .next t ∧ t.tempStatus = .ok ∧
        t.tempValue.toInt = round100 (m.slopeNum.toInt * temp.toNat + m.offNum.toInt) m.den.toInt ∧
        (s.cal.variant = 0#2 → t.tempValue.toInt.natAbs ≤ 71657500) ∧
        (s.cal.variant = 1#2 → t.tempValue.toInt.natAbs ≤ 1146335000)

/-- R224, R228: `CLS_BACK` writes its own slot by the backport table; the other slot and everything else stay. -/
def Obligations.ClsBackWritesOneSlot : Prop :=
  ∀ (n : BitVec 1) (ocrssi code : Word16) (s : State), ∃ t, exec (.clsBack n ocrssi code) s = .next t ∧
    (∀ k : Fin 2, k.val = n.toNat →
      (ocrssi.toNat < 5 → t.backStatus[k] = .powerLow ∧ t.backValue[k] = 0#16) ∧
      (ocrssi.toNat > 18 → t.backStatus[k] = .powerHigh ∧ t.backValue[k] = 0#16) ∧
      (5 ≤ ocrssi.toNat ∧ ocrssi.toNat ≤ 18 → t.backValue[k] = code) ∧
      (t.backStatus[k] = .ok ↔ 5 ≤ ocrssi.toNat ∧ ocrssi.toNat ≤ 18)) ∧
    (∀ k : Fin 2, k.val ≠ n.toNat → t.backStatus[k] = s.backStatus[k] ∧ t.backValue[k] = s.backValue[k]) ∧
    t = { s with backStatus := t.backStatus, backValue := t.backValue, lastResp := .ok }

/-- R231: a classification's results depend on its operands and on the record alone, and issuing it again rewrites the same
values. -/
def Obligations.ClassificationIsPure : Prop :=
  (∀ (moist ocrssi temp : Word16) (s t s' t' : State), s.cal = s'.cal →
    exec (.classify moist ocrssi temp) s = .next t → exec (.classify moist ocrssi temp) s' = .next t' →
      SameGroup t t' .reading ∧ exec (.classify moist ocrssi temp) t = .next t) ∧
  (∀ (n : BitVec 1) (ocrssi code : Word16) (s t s' t' : State),
    exec (.clsBack n ocrssi code) s = .next t → exec (.clsBack n ocrssi code) s' = .next t' →
      (∀ k : Fin 2, k.val = n.toNat → t.backStatus[k] = t'.backStatus[k] ∧ t.backValue[k] = t'.backValue[k]) ∧
      exec (.clsBack n ocrssi code) t = .next t)

/-! ### The host's read port (20_memory.md) -/

/-- R61: a read changes no register and answers `HostRead`; a repeated read with no command between answers the same, but for a
mapping register that is UNSPECIFIED, where U1 allows another value on each read and the model follows it (assumption log 3), and for
a `BUF` address past the capacity of the build, of which the spec states no value (assumption log 10). The port record is the model's
own (assumption log 2). -/
def Obligations.ReadsHaveNoSideEffect : Prop :=
  (∀ (s : State) (r : ReadReq) (rest : List HostInput), s.port.pending = .read r :: rest →
    ∃ v t, step s = .next t ∧ t.port.pending = rest ∧ t.port.readData = some (hostRead r v s) ∧
      t = { s with port := t.port }) ∧
  (∀ (s : State) (r : ReadReq) (v v' : Word32), ¬ (r.isMapping ∧ s.cal.mappable = false) →
    (∀ a, r = .buf a → a < s.build.capBytes) → hostRead r v s = hostRead r v' s)

/-- R62, R65: the register map: every address of the table, zero-extended; every other address reads 0. -/
def Obligations.RegisterMap : Prop :=
  ∀ (s : State) (v : Word32),
    let reg (a : BitVec 8) (n : Nat) : Prop := ∃ x, hostRead (.reg a) v s = .word x ∧ x.toNat = n
    reg 0x00 (respCode s.lastResp) ∧ reg 0x01 s.errSticky.toNat ∧
    (s.build.Legal → s.bitlen ≤ s.build.capBits → reg 0x02 s.bitlen) ∧
    reg 0x03 s.crcReg.toNat ∧ reg 0x04 (s.crcReg ^^^ 0xFFFF#16).toNat ∧
    reg 0x08 s.calw[0].toNat ∧ reg 0x09 s.calw[1].toNat ∧ reg 0x0A s.calw[2].toNat ∧ reg 0x0B s.calw[3].toNat ∧
    reg 0x10 (s.cal.present.toNat + 2 * s.cal.valid.toNat + 4 * s.cal.mappable.toNat + 8 * s.cal.variant.toNat) ∧
    reg 0x11 s.cal.code1.toNat ∧ reg 0x12 s.cal.temp1.toNat ∧ reg 0x13 s.cal.code2.toNat ∧ reg 0x14 s.cal.temp2.toNat ∧
    reg 0x15 s.cal.fmt1.toNat ∧ reg 0x16 s.cal.fmt2.toNat ∧ reg 0x17 s.cal.chkStored.toNat ∧ reg 0x18 s.cal.chkCalc.toNat ∧
    (∀ m, s.cal.mapping = some m → reg 0x19 m.slopeNum.toNat ∧ reg 0x1A m.offNum.toNat ∧ reg 0x1B m.den.toNat) ∧
    reg 0x20 (statusCode s.moistStatus) ∧ reg 0x21 s.moistValue.toNat ∧
    reg 0x22 (statusCode s.tempStatus) ∧ reg 0x23 s.tempValue.toNat ∧
    reg 0x24 (statusCode s.backStatus[0]) ∧ reg 0x25 s.backValue[0].toNat ∧
    reg 0x26 (statusCode s.backStatus[1]) ∧ reg 0x27 s.backValue[1].toNat ∧
    (∀ a : BitVec 8, a.toNat ∉ mappedRegs → reg a 0)

/-- R34: while no mapping exists a read of `SLOPE_NUM`, `OFF_NUM` or `DEN` answers the free value, whichever it is: nothing is
known of it. -/
def Obligations.UnmappedMappingReadsAnything : Prop :=
  ∀ (s : State) (r : ReadReq), r.isMapping → s.cal.mappable = false →
    ∀ v : Word32, hostRead r v s = .word v

/-- R63, R64, R66: the byte views of the buffer, at every address its capacity gives, and of the mask file. -/
def Obligations.ByteViews : Prop :=
  ∀ (s : State) (v : Word32),
    (∀ a, a < s.build.capBits / 8 → ∃ b, hostRead (.buf a) v s = .byte b ∧
      ∀ j, j < 8 → b.getLsbD (7 - j) = bufBit s.buf (8 * a + j)) ∧
    (∀ a : BitVec 5, hostRead (.mask a) v s = .byte (s.mask[a.toNat]'a.isLt))

/-- R70: a 16-bit field appended at a byte boundary reads back as the big-endian bytes of the word. -/
def Obligations.AlignedWordReadsBigEndian : Prop :=
  ∀ (s : State) (v : Word16) (f : Word32), s.build.Legal → BufSized s →
    s.bitlen % 8 = 0 → s.bitlen + 16 ≤ s.build.capBits →
      ∃ t, exec (.bbAppend 16 (v.setWidth 32)) s = .next t ∧
        wordsToBytes [v] = [v.extractLsb 15 8, v.extractLsb 7 0] ∧
        hostRead (.buf (s.bitlen / 8)) f t = .byte (v.extractLsb 15 8) ∧
        hostRead (.buf (s.bitlen / 8 + 1)) f t = .byte (v.extractLsb 7 0)

/-! ### The invariant -/

/-- The invariant holds after reset, in every build whose parameters are legal; the standard build is one. -/
def Obligations.ResetMeetsTheInvariant : Prop :=
  (∀ b : Build, b.Legal → (State.resetOf b).Inv) ∧ State.reset.Inv

/-- Every step from a state that meets the invariant, whatever the host has issued, gives a state that meets it, and the same
build. -/
def Obligations.EveryStepKeepsTheInvariant : Prop :=
  ∀ s t : State, s.Inv → step s = .next t → t.Inv ∧ t.build = s.build
end

