-- ==== Sys2Proof/Laws/State.lean ====
section
/-! SUPPORT. One lemma per field of `State` for each shared operation that updates it, so that no proof unfolds a record update. -/

namespace Sys2Proof.Machine

/-! A command that ends with `OK` (R263). -/

@[simp] theorem respondOk_buf (s : State) : (respondOk s).buf = s.buf := rfl
@[simp] theorem respondOk_bitlen (s : State) : (respondOk s).bitlen = s.bitlen := rfl
@[simp] theorem respondOk_mask (s : State) : (respondOk s).mask = s.mask := rfl
@[simp] theorem respondOk_crcReg (s : State) : (respondOk s).crcReg = s.crcReg := rfl
@[simp] theorem respondOk_calw (s : State) : (respondOk s).calw = s.calw := rfl
@[simp] theorem respondOk_cal (s : State) : (respondOk s).cal = s.cal := rfl
@[simp] theorem respondOk_moistStatus (s : State) : (respondOk s).moistStatus = s.moistStatus := rfl
@[simp] theorem respondOk_moistValue (s : State) : (respondOk s).moistValue = s.moistValue := rfl
@[simp] theorem respondOk_tempStatus (s : State) : (respondOk s).tempStatus = s.tempStatus := rfl
@[simp] theorem respondOk_tempValue (s : State) : (respondOk s).tempValue = s.tempValue := rfl
@[simp] theorem respondOk_backStatus (s : State) : (respondOk s).backStatus = s.backStatus := rfl
@[simp] theorem respondOk_backValue (s : State) : (respondOk s).backValue = s.backValue := rfl
@[simp] theorem respondOk_lastResp (s : State) : (respondOk s).lastResp = .ok := rfl
@[simp] theorem respondOk_errSticky (s : State) : (respondOk s).errSticky = s.errSticky := rfl
@[simp] theorem respondOk_port (s : State) : (respondOk s).port = s.port := rfl
@[simp] theorem respondOk_build (s : State) : (respondOk s).build = s.build := rfl

/-! An error (R263). -/

@[simp] theorem raise_buf (e : Err) (s : State) : (raise e s).buf = s.buf := rfl
@[simp] theorem raise_bitlen (e : Err) (s : State) : (raise e s).bitlen = s.bitlen := rfl
@[simp] theorem raise_mask (e : Err) (s : State) : (raise e s).mask = s.mask := rfl
@[simp] theorem raise_crcReg (e : Err) (s : State) : (raise e s).crcReg = s.crcReg := rfl
@[simp] theorem raise_calw (e : Err) (s : State) : (raise e s).calw = s.calw := rfl
@[simp] theorem raise_cal (e : Err) (s : State) : (raise e s).cal = s.cal := rfl
@[simp] theorem raise_moistStatus (e : Err) (s : State) : (raise e s).moistStatus = s.moistStatus := rfl
@[simp] theorem raise_moistValue (e : Err) (s : State) : (raise e s).moistValue = s.moistValue := rfl
@[simp] theorem raise_tempStatus (e : Err) (s : State) : (raise e s).tempStatus = s.tempStatus := rfl
@[simp] theorem raise_tempValue (e : Err) (s : State) : (raise e s).tempValue = s.tempValue := rfl
@[simp] theorem raise_backStatus (e : Err) (s : State) : (raise e s).backStatus = s.backStatus := rfl
@[simp] theorem raise_backValue (e : Err) (s : State) : (raise e s).backValue = s.backValue := rfl
@[simp] theorem raise_lastResp (e : Err) (s : State) : (raise e s).lastResp = .err e := rfl
@[simp] theorem raise_errSticky (e : Err) (s : State) : (raise e s).errSticky = s.errSticky ||| errBit e := rfl
@[simp] theorem raise_port (e : Err) (s : State) : (raise e s).port = s.port := rfl
@[simp] theorem raise_build (e : Err) (s : State) : (raise e s).build = s.build := rfl

/-! Acknowledging errors (R252). -/

@[simp] theorem clearErrors_buf (s : State) : (clearErrors s).buf = s.buf := rfl
@[simp] theorem clearErrors_bitlen (s : State) : (clearErrors s).bitlen = s.bitlen := rfl
@[simp] theorem clearErrors_mask (s : State) : (clearErrors s).mask = s.mask := rfl
@[simp] theorem clearErrors_crcReg (s : State) : (clearErrors s).crcReg = s.crcReg := rfl
@[simp] theorem clearErrors_calw (s : State) : (clearErrors s).calw = s.calw := rfl
@[simp] theorem clearErrors_cal (s : State) : (clearErrors s).cal = s.cal := rfl
@[simp] theorem clearErrors_moistStatus (s : State) : (clearErrors s).moistStatus = s.moistStatus := rfl
@[simp] theorem clearErrors_moistValue (s : State) : (clearErrors s).moistValue = s.moistValue := rfl
@[simp] theorem clearErrors_tempStatus (s : State) : (clearErrors s).tempStatus = s.tempStatus := rfl
@[simp] theorem clearErrors_tempValue (s : State) : (clearErrors s).tempValue = s.tempValue := rfl
@[simp] theorem clearErrors_backStatus (s : State) : (clearErrors s).backStatus = s.backStatus := rfl
@[simp] theorem clearErrors_backValue (s : State) : (clearErrors s).backValue = s.backValue := rfl
@[simp] theorem clearErrors_lastResp (s : State) : (clearErrors s).lastResp = s.lastResp := rfl
@[simp] theorem clearErrors_errSticky (s : State) : (clearErrors s).errSticky = 0#8 := rfl
@[simp] theorem clearErrors_port (s : State) : (clearErrors s).port = s.port := rfl
@[simp] theorem clearErrors_build (s : State) : (clearErrors s).build = s.build := rfl

/-! The reset of all registers (R290). -/

@[simp] theorem resetRegisters_buf (s : State) : (resetRegisters s).buf = (State.resetOf s.build).buf := rfl
@[simp] theorem resetRegisters_bitlen (s : State) : (resetRegisters s).bitlen = (State.resetOf s.build).bitlen := rfl
@[simp] theorem resetRegisters_mask (s : State) : (resetRegisters s).mask = (State.resetOf s.build).mask := rfl
@[simp] theorem resetRegisters_crcReg (s : State) : (resetRegisters s).crcReg = (State.resetOf s.build).crcReg := rfl
@[simp] theorem resetRegisters_calw (s : State) : (resetRegisters s).calw = (State.resetOf s.build).calw := rfl
@[simp] theorem resetRegisters_cal (s : State) : (resetRegisters s).cal = (State.resetOf s.build).cal := rfl
@[simp] theorem resetRegisters_moistStatus (s : State) : (resetRegisters s).moistStatus = (State.resetOf s.build).moistStatus := rfl
@[simp] theorem resetRegisters_moistValue (s : State) : (resetRegisters s).moistValue = (State.resetOf s.build).moistValue := rfl
@[simp] theorem resetRegisters_tempStatus (s : State) : (resetRegisters s).tempStatus = (State.resetOf s.build).tempStatus := rfl
@[simp] theorem resetRegisters_tempValue (s : State) : (resetRegisters s).tempValue = (State.resetOf s.build).tempValue := rfl
@[simp] theorem resetRegisters_backStatus (s : State) : (resetRegisters s).backStatus = (State.resetOf s.build).backStatus := rfl
@[simp] theorem resetRegisters_backValue (s : State) : (resetRegisters s).backValue = (State.resetOf s.build).backValue := rfl
@[simp] theorem resetRegisters_lastResp (s : State) : (resetRegisters s).lastResp = (State.resetOf s.build).lastResp := rfl
@[simp] theorem resetRegisters_errSticky (s : State) : (resetRegisters s).errSticky = (State.resetOf s.build).errSticky := rfl
@[simp] theorem resetRegisters_port (s : State) : (resetRegisters s).port = s.port := rfl
@[simp] theorem resetRegisters_build (s : State) : (resetRegisters s).build = s.build := rfl

/-! One append (R123). -/

@[simp] theorem put_buf (s : State) (f : BitField) : (put s f).buf = writeBits s.buf s.bitlen f.bits := rfl
@[simp] theorem put_bitlen (s : State) (f : BitField) : (put s f).bitlen = s.bitlen + f.width := rfl
@[simp] theorem put_mask (s : State) (f : BitField) : (put s f).mask = s.mask := rfl
@[simp] theorem put_crcReg (s : State) (f : BitField) : (put s f).crcReg = s.crcReg := rfl
@[simp] theorem put_calw (s : State) (f : BitField) : (put s f).calw = s.calw := rfl
@[simp] theorem put_cal (s : State) (f : BitField) : (put s f).cal = s.cal := rfl
@[simp] theorem put_moistStatus (s : State) (f : BitField) : (put s f).moistStatus = s.moistStatus := rfl
@[simp] theorem put_moistValue (s : State) (f : BitField) : (put s f).moistValue = s.moistValue := rfl
@[simp] theorem put_tempStatus (s : State) (f : BitField) : (put s f).tempStatus = s.tempStatus := rfl
@[simp] theorem put_tempValue (s : State) (f : BitField) : (put s f).tempValue = s.tempValue := rfl
@[simp] theorem put_backStatus (s : State) (f : BitField) : (put s f).backStatus = s.backStatus := rfl
@[simp] theorem put_backValue (s : State) (f : BitField) : (put s f).backValue = s.backValue := rfl
@[simp] theorem put_lastResp (s : State) (f : BitField) : (put s f).lastResp = s.lastResp := rfl
@[simp] theorem put_errSticky (s : State) (f : BitField) : (put s f).errSticky = s.errSticky := rfl
@[simp] theorem put_port (s : State) (f : BitField) : (put s f).port = s.port := rfl
@[simp] theorem put_build (s : State) (f : BitField) : (put s f).build = s.build := rfl

/-! An empty buffer (R120). -/

@[simp] theorem clearBuffer_buf (s : State) : (clearBuffer s).buf = List.replicate s.build.capBytes 0#8 := rfl
@[simp] theorem clearBuffer_bitlen (s : State) : (clearBuffer s).bitlen = 0 := rfl
@[simp] theorem clearBuffer_mask (s : State) : (clearBuffer s).mask = s.mask := rfl
@[simp] theorem clearBuffer_crcReg (s : State) : (clearBuffer s).crcReg = s.crcReg := rfl
@[simp] theorem clearBuffer_calw (s : State) : (clearBuffer s).calw = s.calw := rfl
@[simp] theorem clearBuffer_cal (s : State) : (clearBuffer s).cal = s.cal := rfl
@[simp] theorem clearBuffer_moistStatus (s : State) : (clearBuffer s).moistStatus = s.moistStatus := rfl
@[simp] theorem clearBuffer_moistValue (s : State) : (clearBuffer s).moistValue = s.moistValue := rfl
@[simp] theorem clearBuffer_tempStatus (s : State) : (clearBuffer s).tempStatus = s.tempStatus := rfl
@[simp] theorem clearBuffer_tempValue (s : State) : (clearBuffer s).tempValue = s.tempValue := rfl
@[simp] theorem clearBuffer_backStatus (s : State) : (clearBuffer s).backStatus = s.backStatus := rfl
@[simp] theorem clearBuffer_backValue (s : State) : (clearBuffer s).backValue = s.backValue := rfl
@[simp] theorem clearBuffer_lastResp (s : State) : (clearBuffer s).lastResp = s.lastResp := rfl
@[simp] theorem clearBuffer_errSticky (s : State) : (clearBuffer s).errSticky = s.errSticky := rfl
@[simp] theorem clearBuffer_port (s : State) : (clearBuffer s).port = s.port := rfl
@[simp] theorem clearBuffer_build (s : State) : (clearBuffer s).build = s.build := rfl

/-! Feeding the CRC register (R161). -/

@[simp] theorem feedCrc_buf (bytes : List Byte) (s : State) : (feedCrc bytes s).buf = s.buf := rfl
@[simp] theorem feedCrc_bitlen (bytes : List Byte) (s : State) : (feedCrc bytes s).bitlen = s.bitlen := rfl
@[simp] theorem feedCrc_mask (bytes : List Byte) (s : State) : (feedCrc bytes s).mask = s.mask := rfl
@[simp] theorem feedCrc_crcReg (bytes : List Byte) (s : State) : (feedCrc bytes s).crcReg = crc16Feed s.crcReg bytes := rfl
@[simp] theorem feedCrc_calw (bytes : List Byte) (s : State) : (feedCrc bytes s).calw = s.calw := rfl
@[simp] theorem feedCrc_cal (bytes : List Byte) (s : State) : (feedCrc bytes s).cal = s.cal := rfl
@[simp] theorem feedCrc_moistStatus (bytes : List Byte) (s : State) : (feedCrc bytes s).moistStatus = s.moistStatus := rfl
@[simp] theorem feedCrc_moistValue (bytes : List Byte) (s : State) : (feedCrc bytes s).moistValue = s.moistValue := rfl
@[simp] theorem feedCrc_tempStatus (bytes : List Byte) (s : State) : (feedCrc bytes s).tempStatus = s.tempStatus := rfl
@[simp] theorem feedCrc_tempValue (bytes : List Byte) (s : State) : (feedCrc bytes s).tempValue = s.tempValue := rfl
@[simp] theorem feedCrc_backStatus (bytes : List Byte) (s : State) : (feedCrc bytes s).backStatus = s.backStatus := rfl
@[simp] theorem feedCrc_backValue (bytes : List Byte) (s : State) : (feedCrc bytes s).backValue = s.backValue := rfl
@[simp] theorem feedCrc_lastResp (bytes : List Byte) (s : State) : (feedCrc bytes s).lastResp = s.lastResp := rfl
@[simp] theorem feedCrc_errSticky (bytes : List Byte) (s : State) : (feedCrc bytes s).errSticky = s.errSticky := rfl
@[simp] theorem feedCrc_port (bytes : List Byte) (s : State) : (feedCrc bytes s).port = s.port := rfl
@[simp] theorem feedCrc_build (bytes : List Byte) (s : State) : (feedCrc bytes s).build = s.build := rfl

/-! Taking or issuing an input (R9). -/

@[simp] theorem withPending_buf (p : List HostInput) (s : State) : (withPending p s).buf = s.buf := rfl
@[simp] theorem withPending_bitlen (p : List HostInput) (s : State) : (withPending p s).bitlen = s.bitlen := rfl
@[simp] theorem withPending_mask (p : List HostInput) (s : State) : (withPending p s).mask = s.mask := rfl
@[simp] theorem withPending_crcReg (p : List HostInput) (s : State) : (withPending p s).crcReg = s.crcReg := rfl
@[simp] theorem withPending_calw (p : List HostInput) (s : State) : (withPending p s).calw = s.calw := rfl
@[simp] theorem withPending_cal (p : List HostInput) (s : State) : (withPending p s).cal = s.cal := rfl
@[simp] theorem withPending_moistStatus (p : List HostInput) (s : State) : (withPending p s).moistStatus = s.moistStatus := rfl
@[simp] theorem withPending_moistValue (p : List HostInput) (s : State) : (withPending p s).moistValue = s.moistValue := rfl
@[simp] theorem withPending_tempStatus (p : List HostInput) (s : State) : (withPending p s).tempStatus = s.tempStatus := rfl
@[simp] theorem withPending_tempValue (p : List HostInput) (s : State) : (withPending p s).tempValue = s.tempValue := rfl
@[simp] theorem withPending_backStatus (p : List HostInput) (s : State) : (withPending p s).backStatus = s.backStatus := rfl
@[simp] theorem withPending_backValue (p : List HostInput) (s : State) : (withPending p s).backValue = s.backValue := rfl
@[simp] theorem withPending_lastResp (p : List HostInput) (s : State) : (withPending p s).lastResp = s.lastResp := rfl
@[simp] theorem withPending_errSticky (p : List HostInput) (s : State) : (withPending p s).errSticky = s.errSticky := rfl
@[simp] theorem withPending_port (p : List HostInput) (s : State) : (withPending p s).port = { s.port with pending := p } := rfl
@[simp] theorem withPending_build (p : List HostInput) (s : State) : (withPending p s).build = s.build := rfl

/-! A host read changes the port alone (R61). -/

theorem serveRead_eq (r : ReadReq) (s : State) : serveRead r s = { s with port := (serveRead r s).port } := rfl
@[simp] theorem serveRead_pending (r : ReadReq) (s : State) : (serveRead r s).port.pending = s.port.pending := rfl
@[simp] theorem serveRead_readData (r : ReadReq) (s : State) :
    (serveRead r s).port.readData = some (hostRead r (Config.unspecifiedRead s.port.reads) s) := rfl
@[simp] theorem serveRead_build (r : ReadReq) (s : State) : (serveRead r s).build = s.build := rfl
@[simp] theorem serveRead_reads (r : ReadReq) (s : State) : (serveRead r s).port.reads = s.port.reads + 1 := rfl

/-! Two states are equal when every field is. -/

@[ext] theorem State.ext_fields {s t : State} (buf : s.buf = t.buf) (bitlen : s.bitlen = t.bitlen) (mask : s.mask = t.mask)
    (crcReg : s.crcReg = t.crcReg) (calw : s.calw = t.calw) (cal : s.cal = t.cal)
    (moistStatus : s.moistStatus = t.moistStatus) (moistValue : s.moistValue = t.moistValue)
    (tempStatus : s.tempStatus = t.tempStatus) (tempValue : s.tempValue = t.tempValue)
    (backStatus : s.backStatus = t.backStatus) (backValue : s.backValue = t.backValue)
    (lastResp : s.lastResp = t.lastResp) (errSticky : s.errSticky = t.errSticky) (port : s.port = t.port)
    (build : s.build = t.build) : s = t := by
  cases s; cases t; simp_all

end Sys2Proof.Machine
end

