-- ==== Sys2Proof/Laws/Buffer.lean ====
section
/-! SUPPORT. What the packer's operations do, bit by bit: writing one bit, writing a list of bits, one append, a list of appends
(41_bitfield_packer.md rules R123, R126). Later proofs cite these lemmas and do not unfold the operations. -/

namespace Sys2Proof.Machine

open Sys2Proof.Config

/-! ### One bit -/

/-- Writing bit `j` of a byte, counted from the most significant, changes that bit alone. -/
theorem getLsbD_setMsbBit (x : Byte) (b : Bool) {i j : Nat} (hi : i < 8) (hj : j < 8) :
    (setMsbBit x j b).getLsbD (7 - i) = if i = j then b else x.getLsbD (7 - i) := by
  have key : ∀ i j : Fin 8, (0x80#8 >>> j.val).getLsbD (7 - i.val) = decide (i = j) := by decide
  have hk := key ⟨i, hi⟩ ⟨j, hj⟩
  simp only [Fin.mk.injEq] at hk
  have h7 : 7 - i < 8 := by omega
  by_cases h : i = j <;> cases b <;> simp_all [setMsbBit]

theorem getD_set (buf : Buf) (i j : Nat) (x : Byte) :
    (buf.set i x).getD j 0#8 = if i = j ∧ j < buf.length then x else buf.getD j 0#8 := by
  simp only [List.getD_eq_getElem?_getD, List.getElem?_set]
  by_cases h : i = j
  · subst h
    by_cases hj : i < buf.length <;> simp [hj]
  · simp [h]

/-- No bit exists past the last byte. -/
theorem bufBit_of_le (buf : Buf) {k : Nat} (h : buf.length ≤ k / 8) : bufBit buf k = false := by
  simp [bufBit, List.getD_eq_getElem?_getD, List.getElem?_eq_none h]

/-- Writing a bit keeps the size of the buffer. -/
@[simp] theorem length_setBufBit (buf : Buf) (k : Nat) (b : Bool) : (setBufBit buf k b).length = buf.length := by
  simp [setBufBit]

/-- Writing a bit inside the buffer changes that bit alone (R14, R66). -/
theorem bufBit_setBufBit (buf : Buf) (b : Bool) {k : Nat} (j : Nat) (hk : k / 8 < buf.length) :
    bufBit (setBufBit buf k b) j = if j = k then b else bufBit buf j := by
  unfold bufBit setBufBit
  rw [getD_set]
  by_cases hq : k / 8 = j / 8
  · rw [if_pos ⟨hq, hq ▸ hk⟩, getLsbD_setMsbBit _ _ (Nat.mod_lt _ (by omega)) (Nat.mod_lt _ (by omega)), hq]
    have : j % 8 = k % 8 ↔ j = k := by omega
    simp [this]
  · have : j ≠ k := fun h => hq (by rw [h])
    simp [hq, this]

/-- Two buffers of one size with the same bits are the same buffer. -/
theorem buf_ext {a b : Buf} (hl : a.length = b.length) (h : ∀ k, bufBit a k = bufBit b k) : a = b := by
  refine List.ext_getElem hl fun i hi hi' => BitVec.eq_of_getLsbD_eq fun j hj => ?_
  have := h (8 * i + (7 - j))
  unfold bufBit at this
  have e1 : (8 * i + (7 - j)) / 8 = i := by omega
  have e2 : 7 - (8 * i + (7 - j)) % 8 = j := by omega
  rw [e1, e2] at this
  simpa [List.getD_eq_getElem?_getD, hi, hi'] using this

/-- Every bit of an empty buffer is 0. -/
@[simp] theorem bufBit_replicate (n k : Nat) : bufBit (List.replicate n 0#8) k = false := by
  by_cases h : k / 8 < n <;> simp [bufBit, List.getD_eq_getElem?_getD, h]

/-! ### A list of bits -/

/-- Writing a list of bits keeps the size of the buffer. -/
@[simp] theorem length_writeBits (buf : Buf) (k : Nat) (bs : List Bool) : (writeBits buf k bs).length = buf.length := by
  induction bs generalizing buf k with
  | nil => rfl
  | cons b bs ih => simp [writeBits, ih]

/-- Writing a list of bits inside the buffer changes the bits at its offsets alone (R123). -/
theorem bufBit_writeBits (buf : Buf) (k : Nat) (bs : List Bool) (j : Nat) (h : k + bs.length ≤ 8 * buf.length) :
    bufBit (writeBits buf k bs) j = if k ≤ j ∧ j < k + bs.length then bs.getD (j - k) false else bufBit buf j := by
  induction bs generalizing buf k with
  | nil =>
    rw [if_neg (by simp)]
    rfl
  | cons b bs ih =>
    simp only [List.length_cons] at h
    rw [writeBits, ih _ _ (by simp; omega), bufBit_setBufBit _ _ _ (by omega)]
    by_cases h1 : j = k
    · subst h1; simp
    · by_cases h2 : k + 1 ≤ j ∧ j < k + 1 + bs.length
      · have : j - k = (j - (k + 1)) + 1 := by omega
        rw [if_pos h2, if_pos (by simp; omega), this, List.getD_cons_succ]
      · rw [if_neg h2, if_neg h1, if_neg (by simp; omega)]

/-- Writing two lists one after the other writes their concatenation. -/
theorem writeBits_append (buf : Buf) (k : Nat) (xs ys : List Bool) :
    writeBits buf k (xs ++ ys) = writeBits (writeBits buf k xs) (k + xs.length) ys := by
  induction xs generalizing buf k with
  | nil => simp [writeBits]
  | cons x xs ih => simp [writeBits, ih, Nat.add_assoc, Nat.add_comm 1]

/-! ### Fields -/

@[simp] theorem BitField.length_bits (f : BitField) : f.bits.length = f.width := by simp [BitField.bits]

/-- Bit `i` of a field's bit string is bit `w − 1 − i` of its value (R100). -/
theorem BitField.getD_bits (f : BitField) {i : Nat} (h : i < f.width) :
    f.bits.getD i false = f.value.testBit (f.width - 1 - i) := by
  simp [BitField.bits, List.getD, h]

/-- The number of bits of a list of fields. -/
theorem length_bitsOf (fs : List BitField) : (bitsOf fs).length = (fs.map BitField.width).sum := by
  induction fs with
  | nil => rfl
  | cons f fs ih => simp_all [bitsOf, List.flatMap_cons]

theorem bitsOf_cons (f : BitField) (fs : List BitField) : bitsOf (f :: fs) = f.bits ++ bitsOf fs := rfl

/-- Appending a list of fields writes their bit strings one after the other, advances `BITLEN` by their widths, and changes
nothing else (R123, R126). -/
theorem putAll_eq (s : State) (fs : List BitField) :
    putAll s fs =
      { s with
        buf := writeBits s.buf s.bitlen (bitsOf fs)
        bitlen := s.bitlen + (bitsOf fs).length } := by
  induction fs generalizing s with
  | nil => rfl
  | cons f fs ih =>
    show putAll (put s f) fs = _
    rw [ih (put s f), bitsOf_cons, List.length_append, BitField.length_bits]
    simp only [put_buf, put_bitlen, writeBits_append, BitField.length_bits, Nat.add_assoc]
    rfl

end Sys2Proof.Machine
end

