-- ==== Sys2Proof/Laws/Decode.lean ====
section
/-! SUPPORT. Command words as numbers: bit fields and concatenations become division, remainder and multiplication, which linear
arithmetic decides (00_scope.md rule R12, 30_encoding.md rules R80, R95). -/

namespace Sys2Proof

/-- A bit field as a number (R12). -/
theorem toNat_extractLsb {n : Nat} (w : BitVec n) (hi lo : Nat) :
    (w.extractLsb hi lo).toNat = w.toNat / 2 ^ lo % 2 ^ (hi - lo + 1) := by
  simp [BitVec.extractLsb_toNat, Nat.shiftRight_eq_div_pow]

/-- A concatenation as a number (R12). -/
theorem toNat_append {m n : Nat} (a : BitVec m) (b : BitVec n) : (a ++ b).toNat = a.toNat * 2 ^ n + b.toNat := by
  rw [BitVec.toNat_append, ← Nat.shiftLeft_add_eq_or_of_lt b.isLt, Nat.shiftLeft_eq]

/-- The opcode is the word divided by 2^56 (R80). -/
theorem toNat_opcodeOf (w : CmdWord) : (opcodeOf w).toNat = w.toNat / 2 ^ 56 := by
  unfold opcodeOf
  rw [toNat_extractLsb]
  have := w.isLt
  omega

/-- A word whose reserved bits are 0 spells its command (R95). -/
theorem ifReservedZero_of_zero {n : Nat} (w : CmdWord) (r : BitVec n) (i : Instr) (h : r.toNat = 0) :
    ifReservedZero w r i = .instr i := by
  unfold ifReservedZero
  rw [if_pos (BitVec.eq_of_toNat_eq (by simpa using h))]

/-- A word with a 1 among its reserved bits is illegal (R95). -/
theorem ifReservedZero_of_ne {n : Nat} (w : CmdWord) (r : BitVec n) (i : Instr) (h : r.toNat ≠ 0) :
    ifReservedZero w r i = .illegal (.reservedBitSet (opcodeOf w)) := by
  unfold ifReservedZero
  rw [if_neg fun e => h (by simp [e])]

/-- A format's check gives the command only, and only when the reserved bits are 0 (R95). -/
theorem ifReservedZero_eq_instr {n : Nat} {w : CmdWord} {r : BitVec n} {i j : Instr} :
    ifReservedZero w r i = .instr j ↔ r = 0#n ∧ i = j := by
  unfold ifReservedZero
  split <;> simp_all

end Sys2Proof
end

