-- ==== Sys2Proof/Laws/PerInstr.lean ====
section
/-! SUPPORT. Statements made once per command. `EncodingRow`: the encoding of a command carries the opcode of the row of the opcode
table that bears its mnemonic (30_encoding.md rule R93). -/

namespace Sys2Proof.Laws.EncodingRow

open Sys2Proof

/-- The command's encoding has the opcode of its own row of the table (R93). -/
def Statement (i : Instr) : Prop :=
  ∃ r ∈ opcodeTable, r.mnemonic = i.mnemonic ∧ opcodeOf (encode i) = opcodeOf r.pattern

/-- A command whose encoding, as a number, has the opcode of a row bearing its mnemonic. -/
theorem of_row {i : Instr} (r : OpcodeRow) (hr : r ∈ opcodeTable) (hm : r.mnemonic = i.mnemonic)
    (h : (encode i).toNat / 2 ^ 56 = r.pattern.toNat / 2 ^ 56) : Statement i :=
  ⟨r, hr, hm, BitVec.eq_of_toNat_eq (by rw [toNat_opcodeOf, toNat_opcodeOf, h])⟩

theorem nop : Statement .nop := ⟨opcodeTable[14], by decide, rfl, by decide⟩
theorem reset : Statement .reset := ⟨opcodeTable[15], by decide, rfl, by decide⟩
theorem clrerr : Statement .clrerr := ⟨opcodeTable[16], by decide, rfl, by decide⟩
theorem bbClear : Statement .bbClear := ⟨opcodeTable[0], by decide, rfl, by decide⟩
theorem crcInit : Statement .crcInit := ⟨opcodeTable[5], by decide, rfl, by decide⟩
theorem calClear : Statement .calClear := ⟨opcodeTable[11], by decide, rfl, by decide⟩

theorem bbAppend (width : BitVec 6) (value : Word32) : Statement (.bbAppend width value) :=
  of_row opcodeTable[1] (by decide) rfl (by
    have := width.isLt; have := value.isLt
    simp only [encode, toNat_append]; simp [opcodeTable]; omega)

theorem bbEbv (value : Word32) : Statement (.bbEbv value) :=
  of_row opcodeTable[2] (by decide) rfl (by
    have := value.isLt
    simp only [encode, toNat_append]; simp [opcodeTable]; omega)

theorem maskLd (idx : BitVec 5) (byte : Byte) : Statement (.maskLd idx byte) :=
  of_row opcodeTable[3] (by decide) rfl (by
    have := idx.isLt; have := byte.isLt
    simp only [encode, toNat_append]; simp [opcodeTable]; omega)

theorem selBuild (target action bank : BitVec 4) (masklen : BitVec 12) (pointer : Word32) :
    Statement (.selBuild target action bank masklen pointer) :=
  of_row opcodeTable[4] (by decide) rfl (by
    have := target.isLt; have := action.isLt; have := bank.isLt; have := masklen.isLt; have := pointer.isLt
    simp only [encode, toNat_append]; simp [opcodeTable]; omega)

theorem crcByte (byte : Byte) : Statement (.crcByte byte) :=
  of_row opcodeTable[6] (by decide) rfl (by
    have := byte.isLt
    simp only [encode, toNat_append]; simp [opcodeTable]; omega)

theorem crcWord (word : Word16) : Statement (.crcWord word) :=
  of_row opcodeTable[7] (by decide) rfl (by
    have := word.isLt
    simp only [encode, toNat_append]; simp [opcodeTable]; omega)

theorem calLdw (idx : BitVec 2) (word : Word16) : Statement (.calLdw idx word) :=
  of_row opcodeTable[8] (by decide) rfl (by
    have := idx.isLt; have := word.isLt
    simp only [encode, toNat_append]; simp [opcodeTable]; omega)

theorem calLdb (idx : BitVec 3) (byte : Byte) : Statement (.calLdb idx byte) :=
  of_row opcodeTable[9] (by decide) rfl (by
    have := idx.isLt; have := byte.isLt
    simp only [encode, toNat_append]; simp [opcodeTable]; omega)

theorem calDecode (variant : BitVec 2) : Statement (.calDecode variant) :=
  of_row opcodeTable[10] (by decide) rfl (by
    have := variant.isLt
    simp only [encode, toNat_append]; simp [opcodeTable]; omega)

theorem classify (moist ocrssi temp : Word16) : Statement (.classify moist ocrssi temp) :=
  of_row opcodeTable[12] (by decide) rfl (by
    have := moist.isLt; have := ocrssi.isLt; have := temp.isLt
    simp only [encode, toNat_append]; simp [opcodeTable]; omega)

theorem clsBack (n : BitVec 1) (ocrssi code : Word16) : Statement (.clsBack n ocrssi code) :=
  of_row opcodeTable[13] (by decide) rfl (by
    have := n.isLt; have := ocrssi.isLt; have := code.isLt
    simp only [encode, toNat_append]; simp [opcodeTable]; omega)

end Sys2Proof.Laws.EncodingRow
end

