-- ==== Sys2Proof/Laws/Step.lean ====
section
/-! SUPPORT. Everything a step can do, and everything a command can do, each said once (00_scope.md rule R9; 60_exceptions.md rules
R263, R271). Later proofs take these apart and do not unfold `step` or `exec`. -/

namespace Sys2Proof.Machine

/-! ### Appending fields leaves all other registers alone -/

/-- Appending fields changes the buffer and its length alone (R123). -/
theorem putAll_frame (s : State) (fs : List BitField) :
    putAll s fs = { s with buf := (putAll s fs).buf, bitlen := (putAll s fs).bitlen } := by
  rw [putAll_eq]

@[simp] theorem putAll_lastResp (s : State) (fs : List BitField) : (putAll s fs).lastResp = s.lastResp := by
  rw [putAll_frame]

@[simp] theorem putAll_errSticky (s : State) (fs : List BitField) : (putAll s fs).errSticky = s.errSticky := by
  rw [putAll_frame]

@[simp] theorem putAll_port (s : State) (fs : List BitField) : (putAll s fs).port = s.port := by
  rw [putAll_frame]

@[simp] theorem putAll_build (s : State) (fs : List BitField) : (putAll s fs).build = s.build := by
  rw [putAll_frame]

/-! ### A command -/

/-- What a command does when its checks pass (46_control.md and 41 to 45). -/
def effect : Instr → State → State
  | .nop, s => s
  | .reset, s => resetRegisters s
  | .clrerr, s => clearErrors s
  | .bbClear, s => clearBuffer s
  | .bbAppend width value, s => put s ⟨width.toNat, value.toNat⟩
  | .bbEbv value, s => putAll s (ebvFields value.toNat)
  | .maskLd idx byte, s => { s with mask := s.mask.set idx.toNat byte idx.isLt }
  | .selBuild target action bank masklen pointer, s =>
      putAll (clearBuffer s) (selectFields s.build.selectCmdCode s.mask target action bank masklen pointer)
  | .crcInit, s => { s with crcReg := Config.crcInit }
  | .crcByte byte, s => feedCrc [byte] s
  | .crcWord word, s => feedCrc (wordsToBytes [word]) s
  | .calLdw idx word, s => { s with calw := s.calw.set idx.toNat word idx.isLt }
  | .calLdb idx byte, s =>
      { s with
        calw := s.calw.set (idx.toNat / 2)
          (replaceByte idx byte (s.calw[idx.toNat / 2]'(wordOfByte_lt idx))) (wordOfByte_lt idx) }
  | .calDecode variant, s => { s with cal := decodeRecord s.build.varbWordOrder variant s.calw }
  | .calClear, s => { s with cal := CalRecord.absent }
  | .classify moist ocrssi temp, s =>
      { s with
        moistStatus := (moistChannel moist ocrssi).1
        moistValue := (moistChannel moist ocrssi).2
        tempStatus := (tempChannel s.cal ocrssi temp).1
        tempValue := (tempChannel s.cal ocrssi temp).2 }
  | .clsBack n ocrssi code, s =>
      { s with
        backStatus := s.backStatus.set n.toNat (backChannel ocrssi code).1 n.isLt
        backValue := s.backValue.set n.toNat (backChannel ocrssi code).2 n.isLt }

/-- A command answers a next state: its effect with response `OK`, or one of the errors it can raise on the state before it
(R262, R263, R271). -/
theorem exec_cases (i : Instr) (s : State) :
    exec i s = .next (respondOk (effect i s)) ∨ ∃ e ∈ canRaise i, exec i s = .next (raise e s) := by
  cases i
  case bbAppend width value =>
    simp only [exec, execBbAppend]
    split
    · exact .inr ⟨.width, by simp [canRaise], rfl⟩
    · split
      · exact .inr ⟨.range, by simp [canRaise], rfl⟩
      · split
        · exact .inr ⟨.overflow, by simp [canRaise], rfl⟩
        · exact .inl rfl
  case bbEbv value =>
    simp only [exec, execBbEbv]
    split
    · exact .inr ⟨.overflow, by simp [canRaise], rfl⟩
    · exact .inl rfl
  case selBuild target action bank masklen pointer =>
    simp only [exec, execSelBuild]
    split
    · exact .inr ⟨.enum, by simp [canRaise], rfl⟩
    · split
      · exact .inr ⟨.enum, by simp [canRaise], rfl⟩
      · split
        · exact .inr ⟨.range, by simp [canRaise], rfl⟩
        · split
          · exact .inr ⟨.range, by simp [canRaise], rfl⟩
          · exact .inl rfl
  all_goals exact .inl rfl

/-- Every command answers a next state. -/
theorem exec_isNext (i : Instr) (s : State) : ∃ t, exec i s = .next t := by
  rcases exec_cases i s with h | ⟨e, -, h⟩ <;> exact ⟨_, h⟩

/-! ### A step -/

/-- Taking an input from a non-empty queue. -/
theorem takeInput_eq_some {s : State} {x : HostInput} {rest : List HostInput} (h : s.port.pending = x :: rest) :
    takeInput s = some (x, withPending rest s) := by
  simp [takeInput, h]

/-- Nothing to take. -/
theorem takeInput_eq_none {s : State} (h : s.port.pending = []) : takeInput s = none := by
  simp [takeInput, h]

/-- The five things a step can do. A word is an illegal command when it spells none, and when it spells one whose operand the
build does not have. -/
theorem step_cases (s : State) :
    (s.port.pending = [] ∧ step s = .next s) ∨
    (∃ r rest, s.port.pending = .read r :: rest ∧ step s = .next (serveRead r (withPending rest s))) ∨
    (∃ rest, s.port.pending = .reset :: rest ∧ step s = .next (hardReset (withPending rest s))) ∨
    (∃ w rest i, s.port.pending = .command w :: rest ∧ decode w = .instr i ∧ presents s.build i = true ∧
      step s = exec i (withPending rest s)) ∨
    (∃ w rest, s.port.pending = .command w :: rest ∧
      (∀ i, decode w = .instr i → presents s.build i = false) ∧
      step s = .next (illegalCommand (withPending rest s))) := by
  unfold step
  rcases h : s.port.pending with _ | ⟨x, rest⟩
  · exact .inl ⟨rfl, by rw [takeInput_eq_none h]⟩
  · rw [takeInput_eq_some h]
    cases x with
    | read r => exact .inr (.inl ⟨r, rest, rfl, rfl⟩)
    | reset => exact .inr (.inr (.inl ⟨rest, rfl, rfl⟩))
    | command w =>
      cases hd : decode w with
      | instr i =>
        cases hp : presents s.build i with
        | true => exact .inr (.inr (.inr (.inl ⟨w, rest, i, rfl, hd, hp, by simp [hd, hp]⟩)))
        | false =>
          refine .inr (.inr (.inr (.inr ⟨w, rest, rfl, fun j hj => ?_, by simp [hd, hp]⟩)))
          obtain rfl : i = j := by simpa [hd] using hj
          exact hp
      | illegal why => exact .inr (.inr (.inr (.inr ⟨w, rest, rfl, by simp [hd], by simp [hd]⟩)))

/-- A build whose EBV operand has the 32 bits of its field presents every command. -/
theorem presents_of_full {b : Build} (h : 32 ≤ b.ebvValueBits) (i : Instr) : presents b i = true := by
  have hp : 2 ^ 32 ≤ 2 ^ b.ebvValueBits := Nat.pow_le_pow_right (by omega) h
  cases i <;> simp only [presents, decide_eq_true_eq]
  all_goals omega

/-- The next input a state with an issued word takes is that word. -/
theorem pending_withFetchWord (s : State) (nbits w : Nat) :
    (s.withFetchWord nbits w).port.pending = .command (BitVec.ofNat 64 (w % 2 ^ nbits)) :: s.port.pending := rfl

end Sys2Proof.Machine
end

