-- ==== Sys2Proof/Tests/Slice0.lean ====
section
/-! SUPPORT. Tests of the model's own text: words written out from the spec's encodings, source lines each check refuses, at most two
one-step tests a command, and for every statement with hypotheses a witness that meets them. Expected values are the spec's: the
examples of the command rules and the tables of 95_test_vectors.md, named beside each test. -/

open Sys2Proof Sys2Proof.Machine Sys2Proof.Config

namespace Sys2Proof.Tests

/-! ### Helpers -/

/-- The state a result holds (the tests ask `answers` beside it where it matters). -/
def got (r : Result) : State :=
  match r with
  | .next t => t
  | _ => State.reset

/-- The result is a next state. -/
def answers (r : Result) : Bool :=
  match r with
  | .next _ => true
  | _ => false

/-- After reset, with the host having issued these inputs. -/
def issued (xs : List HostInput) : State := withPending xs State.reset

/-- After reset, with `n` zero bits appended. -/
def filled (n : Nat) : State := { State.reset with bitlen := n }

/-- After reset, with these calibration words loaded. -/
def loaded (w0 w1 w2 w3 : Word16) : State := { State.reset with calw := #v[w0, w1, w2, w3] }

/-- A build with the least capacity, an 8-bit EBV operand, another Select code and the other word order (R7). -/
def small : Build := ⟨320, 8, 0b0101, .fptFirst⟩

/-- After reset of the small build, with `n` zero bits appended. -/
def filledSmall (n : Nat) : State := { State.resetOf small with bitlen := n }

/-- A state with the record of Variant A words A1 (95_test_vectors.md table 2.5). -/
def stateA1 : State := got (exec (.calDecode 0) (loaded 0x4BDB 0x76C8 0x9938 0x95E0))

/-- A state with the record of Variant B words B1 (table 2.5). -/
def stateB1 : State := got (exec (.calDecode 1) (loaded 0x7000 0x1B52 0x8900 0x1CE2))

/-- A state with the record of Variant B words B7: valid and not mappable (table 2.5). -/
def stateB7 : State := got (exec (.calDecode 1) State.reset)

/-- The first `n` bytes of the buffer. -/
def bytes (n : Nat) (s : State) : List Byte := (List.range n).map fun i => s.buf.getD i 0#8

/-! ### Decoding: one word of every command -/

/-- R81, R250. -/
theorem test_decode_nop : decode 0x0000000000000000 = .instr .nop := by decide
/-- R81, R251. -/
theorem test_decode_reset : decode 0x0100000000000000 = .instr .reset := by decide
/-- R81, R252. -/
theorem test_decode_clrerr : decode 0x0200000000000000 = .instr .clrerr := by decide
/-- R81, R120. -/
theorem test_decode_bb_clear : decode 0x1000000000000000 = .instr .bbClear := by decide
/-- R82, bit by bit, and the word of R121's example `BB_APPEND 0b1010, 4`. -/
theorem test_decode_bb_append :
    decode (0b00010001#8 ++ 0b000100#6 ++ 0#18 ++ 0b1010#32) = .instr (.bbAppend 4 10) ∧
    decode 0x111000000000000A = .instr (.bbAppend 4 10) := by decide
/-- R83, R122's example. -/
theorem test_decode_bb_ebv : decode 0x12000000000000D0 = .instr (.bbEbv 208) := by decide
/-- R84, R140's example, and a word with every operand bit 1. -/
theorem test_decode_mask_ld :
    decode 0x180000000000001F = .instr (.maskLd 0 0x1F) ∧ decode 0x1800000000001FFE = .instr (.maskLd 31 0xFE) := by decide
/-- R85, bit by bit, and R141's example. -/
theorem test_decode_sel_build :
    decode (0b00011001#8 ++ 0b0100#4 ++ 0b0000#4 ++ 0b0011#4 ++ 0b000000001000#12 ++ 0xD0#32) =
      .instr (.selBuild 4 0 3 8 0xD0) ∧
    decode 0x19403008000000D0 = .instr (.selBuild 4 0 3 8 0xD0) := by decide
/-- R81, R160. -/
theorem test_decode_crc_init : decode 0x2000000000000000 = .instr .crcInit := by decide
/-- R86, R161's example. -/
theorem test_decode_crc_byte : decode 0x2100000000000031 = .instr (.crcByte 0x31) := by decide
/-- R87, R162's example. -/
theorem test_decode_crc_word : decode 0x2200000000001234 = .instr (.crcWord 0x1234) := by decide
/-- R88, R180's example. -/
theorem test_decode_cal_ldw : decode 0x30000000000176C8 = .instr (.calLdw 1 0x76C8) := by decide
/-- R89, R181's example. -/
theorem test_decode_cal_ldb : decode 0x3100000000000134 = .instr (.calLdb 1 0x34) := by decide
/-- R90, R183's example for Variant A, and the word of table 2.5 for Variant B. -/
theorem test_decode_cal_decode :
    decode 0x3200000000000000 = .instr (.calDecode 0) ∧ decode 0x3200000000000001 = .instr (.calDecode 1) := by decide
/-- R81, R182. -/
theorem test_decode_cal_clear : decode 0x3300000000000000 = .instr .calClear := by decide
/-- R91, R220's example. -/
theorem test_decode_classify : decode 0x4000012C000C0898 = .instr (.classify 300 12 2200) := by decide
/-- R92, R224's example. -/
theorem test_decode_cls_back : decode 0x41000001000A0309 = .instr (.clsBack 1 10 777) := by decide

/-- R94: unassigned opcodes are illegal. -/
theorem test_decode_unassigned :
    decode 0x0300000000000000 = .illegal (.unassignedOpcode 0x03) ∧
    decode 0xFF00000000000000 = .illegal (.unassignedOpcode 0xFF) := by decide

/-- R95: the lowest reserved bit of formats `Z`, `F`, `M`, `C` and `K`, set, makes the word illegal. -/
theorem test_decode_reserved_bit :
    decode 0x0000000000000001 = .illegal (.reservedBitSet 0x00) ∧
    decode 0x1104000100000000 = .illegal (.reservedBitSet 0x11) ∧
    decode 0x1800000000002000 = .illegal (.reservedBitSet 0x18) ∧
    decode 0x4001000000000000 = .illegal (.reservedBitSet 0x40) ∧
    decode 0x4100000200000000 = .illegal (.reservedBitSet 0x41) := by decide

/-- The encoder writes the same words (R82, R85, R92). -/
theorem test_encode :
    encode (.bbAppend 4 10) = 0x111000000000000A ∧ encode (.selBuild 4 0 3 8 0xD0) = 0x19403008000000D0 ∧
    encode (.clsBack 1 10 777) = 0x41000001000A0309 := by decide

/-- A table row's word given with its 64 bits. -/
theorem test_decodeTableWord : decodeTableWord 64 0x2100000000000031 = some (.crcByte 0x31) := by decide

/-! ### The assembler and its checks (R97 to R99) -/

/-- R98: the operand order of the source differs from the order of the fields. -/
theorem test_assemble_operand_order :
    assemble (.clsBack 1 777 10) = some [.clsBack 1 10 777] ∧
    assemble (.selBuild Target.sl.code 0 3 0xD0 8) = some [.selBuild 4 0 3 8 0xD0] := by decide

/-- R99: the expansion of `SELECT`. -/
theorem test_assemble_select :
    assemble (.select 4 0 3 0xD0 8 [0x1F]) = some [.maskLd 0 0x1F, .selBuild 4 0 3 8 0xD0] := by decide

/-- R99: the expansions of `CRC16` and `DECODE`. -/
theorem test_assemble_sequences :
    assemble (.crc16 [0x31, 0x32]) = some [.crcInit, .crcByte 0x31, .crcByte 0x32] ∧
    assemble (.decode Variant.b.code 1 2 3 4) =
      some [.calLdw 0 1, .calLdw 1 2, .calLdw 2 3, .calLdw 3 4, .calDecode 1] := by decide

/-- R98, R99: text with a name, a hexadecimal number, a binary number and a list. -/
theorem test_assemble_text :
    assembleText "SELECT SL, 0, 0b11, 0xD0, 8, [0x1F]".toList = some [.maskLd 0 0x1F, .selBuild 4 0 3 8 0xD0] ∧
    assembleText "CAL_DECODE B".toList = some [.calDecode 1] := by decide

/-- Text that spells no line, and a line that is not well-formed. -/
theorem test_assemble_text_refused :
    assembleText "BB_APPEND 0x, 4".toList = none ∧ assembleText "BB_APPEND 1, 64".toList = none ∧
    assembleText "BB_APPENDX 1, 4".toList = none := by decide

/-- Each operand of the packer's and the Select builder's commands, one past its field. -/
theorem test_illformed_encode_half :
    (SrcLine.bbAppend (2 ^ 32) 1).wellFormed = false ∧ (SrcLine.bbAppend 0 64).wellFormed = false ∧
    (SrcLine.bbEbv (2 ^ 32)).wellFormed = false ∧
    (SrcLine.maskLd 32 0).wellFormed = false ∧ (SrcLine.maskLd 0 256).wellFormed = false ∧
    (SrcLine.selBuild 16 0 0 0 0).wellFormed = false ∧ (SrcLine.selBuild 0 16 0 0 0).wellFormed = false ∧
    (SrcLine.selBuild 0 0 16 0 0).wellFormed = false ∧ (SrcLine.selBuild 0 0 0 (2 ^ 32) 0).wellFormed = false ∧
    (SrcLine.selBuild 0 0 0 0 4096).wellFormed = false ∧
    (SrcLine.crcByte 256).wellFormed = false ∧ (SrcLine.crcWord 65536).wellFormed = false := by decide

/-- Each operand of the decoder's and the thresholder's commands, one past its field. -/
theorem test_illformed_decode_half :
    (SrcLine.calLdw 4 0).wellFormed = false ∧ (SrcLine.calLdw 0 65536).wellFormed = false ∧
    (SrcLine.calLdb 8 0).wellFormed = false ∧ (SrcLine.calLdb 0 256).wellFormed = false ∧
    (SrcLine.calDecode 4).wellFormed = false ∧
    (SrcLine.classify 65536 0 0).wellFormed = false ∧ (SrcLine.classify 0 65536 0).wellFormed = false ∧
    (SrcLine.classify 0 0 65536).wellFormed = false ∧
    (SrcLine.clsBack 2 0 0).wellFormed = false ∧ (SrcLine.clsBack 0 65536 0).wellFormed = false ∧
    (SrcLine.clsBack 0 0 65536).wellFormed = false := by decide

/-- Each check of the pseudo-instructions. -/
theorem test_illformed_pseudo :
    (SrcLine.maskSet [256]).wellFormed = false ∧ (SrcLine.maskSet (List.replicate 33 0)).wellFormed = false ∧
    (SrcLine.select 16 0 0 0 0 []).wellFormed = false ∧ (SrcLine.select 0 0 0 0 1 [256]).wellFormed = false ∧
    (SrcLine.select 0 0 0 0 9 [0]).wellFormed = false ∧
    (SrcLine.select 0 0 0 0 257 (List.replicate 33 0)).wellFormed = false ∧
    (SrcLine.crc16 [256]).wellFormed = false ∧
    (SrcLine.calLoad 65536 0 0 0).wellFormed = false ∧ (SrcLine.calLoad 0 65536 0 0).wellFormed = false ∧
    (SrcLine.calLoad 0 0 65536 0).wellFormed = false ∧ (SrcLine.calLoad 0 0 0 65536).wellFormed = false ∧
    (SrcLine.calLoadB (List.replicate 7 0)).wellFormed = false ∧
    (SrcLine.calLoadB (256 :: List.replicate 7 0)).wellFormed = false ∧
    (SrcLine.decode 4 0 0 0 0).wellFormed = false ∧ (SrcLine.decode 0 65536 0 0 0).wellFormed = false ∧
    (SrcLine.decode 0 0 65536 0 0).wellFormed = false ∧ (SrcLine.decode 0 0 0 65536 0).wellFormed = false ∧
    (SrcLine.decode 0 0 0 0 65536).wellFormed = false := by decide

/-- The assembler refuses an ill-formed line. -/
theorem test_assemble_refused : assemble (.bbAppend 0 64) = none := by decide

/-! ### One step of each command -/

/-- R250's example: `NOP` after an error leaves the sticky bits. -/
theorem test_nop : let t := got (exec .nop (raise .range State.reset)); t.lastResp = .ok ∧ t.errSticky = 0x08#8 := by decide

/-- R251's example, in part. -/
theorem test_reset :
    let t := got (exec .reset { filled 45 with crcReg := 0x29B1, errSticky := 0x08 })
    t.bitlen = 0 ∧ t.crcReg = 0xFFFF ∧ t.errSticky = 0 := by decide

/-- R252's example. -/
theorem test_clrerr : (got (exec .clrerr { State.reset with errSticky := 0x18 })).errSticky = 0 := by decide

/-- R120's example. -/
theorem test_bb_clear : (got (exec .bbClear (filled 45))).bitlen = 0 := by decide

/-- R121's example: the second append of `0xA8`. -/
theorem test_bb_append :
    let t := got (exec (.bbAppend 3 4) (got (exec (.bbAppend 4 10) State.reset)))
    t.bitlen = 7 ∧ bytes 1 t = [0xA8] := by decide +kernel

/-- R121: the three errors at their boundaries, in order. -/
theorem test_bb_append_errors :
    (got (exec (.bbAppend 33 0) State.reset)).lastResp = .err .width ∧
    (got (exec (.bbAppend 3 8) State.reset)).lastResp = .err .range ∧
    (got (exec (.bbAppend 1 0) (filled 512))).lastResp = .err .overflow := by decide

/-- R122's example: bytes `C0 A8 00`. -/
theorem test_bb_ebv :
    let t := got (exec (.bbEbv 208) (got (exec (.bbAppend 1 1) State.reset)))
    t.bitlen = 17 ∧ bytes 3 t = [0xC0, 0xA8, 0x00] := by decide +kernel

/-- R122: what does not fit writes nothing. -/
theorem test_bb_ebv_overflow :
    let t := got (exec (.bbEbv 128) (filled 497)); t.bitlen = 497 ∧ t.lastResp = .err .overflow ∧ t.errSticky = 0x20 := by decide

/-- R140's example. -/
theorem test_mask_ld : (got (exec (.maskLd 0 0x1F) State.reset)).mask[0] = 0x1F := by decide

/-- R141's example: bytes `A8 38 15 00 81 F0`. -/
theorem test_sel_build :
    let t := got (exec (.selBuild 4 0 3 8 0xD0) (got (exec (.maskLd 0 0x1F) State.reset)))
    t.bitlen = 45 ∧ bytes 6 t = [0xA8, 0x38, 0x15, 0x00, 0x81, 0xF0] := by decide +kernel

/-- R264: a bad action before a bad bank. -/
theorem test_sel_build_priority : (got (exec (.selBuild 0 8 4 0 0) State.reset)).lastResp = .err .enum := by decide

/-- R160's example. -/
theorem test_crc_init : (got (exec .crcInit { State.reset with crcReg := 0x29B1 })).crcReg = 0xFFFF := by decide

/-- R161's example. -/
theorem test_crc_byte :
    let t := got (exec (.crcByte 0x31) State.reset); t.crcReg = 0xC782 ∧ crcOut t = 0x387D := by decide +kernel

/-- R162's example. -/
theorem test_crc_word :
    let t := got (exec (.crcWord 0x1234) State.reset); t.crcReg = 0x0EC9 ∧ crcOut t = 0xF136 := by decide +kernel

/-- R166: the CRC of "123456789". -/
theorem test_crc_known_answer : crc16 [0x31, 0x32, 0x33, 0x34, 0x35, 0x36, 0x37, 0x38, 0x39] = 0xD64E := by decide +kernel

/-- R180's example. -/
theorem test_cal_ldw : (got (exec (.calLdw 1 0x76C8) State.reset)).calw[1] = 0x76C8 := by decide

/-- The mixed load under table 2.5: byte 5 is the low byte of word 2. -/
theorem test_cal_ldb : (got (exec (.calLdb 5 0x11) (loaded 0 0 0xBEEF 0))).calw[2] = 0xBE11 := by decide

/-- R183's example, record A1. -/
theorem test_cal_decode_a :
    let r := stateA1.cal
    r.valid = true ∧ r.code1 = 1900 ∧ r.temp1 = 1100 ∧ r.code2 = 2500 ∧ r.temp2 = 1400 ∧
    r.mapping = some ⟨300, BitVec.ofInt 32 (-390000), 6000⟩ := by decide +kernel

/-- Record B1 of table 2.5. -/
theorem test_cal_decode_b :
    let r := stateB1.cal
    r.valid = true ∧ r.code1 = 28672 ∧ r.temp1 = 850 ∧ r.code2 = 35072 ∧ r.temp2 = 1250 ∧ r.chkStored = 0x000F ∧
    r.mapping = some ⟨6400, BitVec.ofInt 32 (-9868800), 64000⟩ := by decide +kernel

/-- R182's example: what a following `CLASSIFY` reports. -/
theorem test_cal_clear :
    (got (exec (.classify 300 12 2200) (got (exec .calClear stateA1)))).tempStatus = .calAbsent := by decide +kernel

/-- R220's example: 45.00 degrees. -/
theorem test_classify :
    let t := got (exec (.classify 300 12 2200) stateA1)
    t.moistStatus = .ok ∧ t.moistValue = 300 ∧ t.tempStatus = .ok ∧ t.tempValue = 4500 := by decide +kernel

/-- Table 2.6c, record B1: a negative temperature. -/
theorem test_classify_b :
    (got (exec (.classify 300 12 1000) stateB1)).tempValue = BitVec.ofInt 32 (-5420) := by decide +kernel

/-- R224's two examples. -/
theorem test_cls_back :
    let t := got (exec (.clsBack 1 10 777) State.reset)
    let u := got (exec (.clsBack 1 19 777) State.reset)
    t.backStatus[1] = .ok ∧ t.backValue[1] = 777 ∧ t.backStatus[0] = .none ∧
    u.backStatus[1] = .powerHigh ∧ u.backValue[1] = 0 := by decide

/-- R256: `Round100` at each sign combination. -/
theorem test_round100 :
    round100 1 200 = 1 ∧ round100 (-1) 200 = -1 ∧ round100 1 (-200) = -1 ∧ round100 (-1) (-200) = 1 ∧ round100 1 201 = 0 := by
  decide

/-! ### One step of the machine -/

/-- A word issued as the next input is the one the step runs. -/
theorem test_step_withFetchWord :
    (got (step (State.reset.withFetchWord 64 0x2100000000000031))).crcReg = 0xC782 := by decide +kernel

/-- R7, R121, R141, R113: in a build with other parameters, the capacity and the Select code are its own. -/
theorem test_small_build :
    (got (exec (.bbAppend 1 1) (filledSmall 319))).lastResp = .ok ∧
    (got (exec (.bbAppend 1 1) (filledSmall 320))).lastResp = .err .overflow ∧
    bytes 1 (got (exec (.selBuild 4 0 3 0 0) (filledSmall 320))) = [0x58] := by decide +kernel

/-- Record B1 of table 2.5 with the words of each group exchanged, in a build with `VARB_WORD_ORDER = FPT_FIRST` (R110). -/
theorem test_fpt_first :
    (got (exec (.calDecode 1) { State.resetOf small with calw := #v[0x1B52, 0x7000, 0x1CE2, 0x8900] })).cal = stateB1.cal := by
  decide +kernel

/-- R261: an illegal word sets bit 1 of `ERR_STICKY`. -/
theorem test_step_illegal :
    let t := got (step (State.reset.withFetchWord 64 0xFF00000000000000)); t.lastResp = .err .illegal ∧ t.errSticky = 0x02 := by
  decide

/-- R61: a read answers and takes the input; R26: `CRC_OUT` after reset reads 0. -/
theorem test_step_read :
    let t := got (step (issued [.read (.reg 0x04)])); t.port.readData = some (.word 0) ∧ t.port.pending = [] := by decide

/-- With nothing issued nothing changes. -/
theorem test_step_idle : got (step State.reset) = State.reset := by decide

/-! ### Witnesses: each statement with hypotheses has a state and operands that meet them -/

theorem witness_DecodedWordIsTheEncoding : decode 0x12000000FFFFFFFF = .instr (.bbEbv 0xFFFFFFFF) := by decide

theorem witness_DecoderAgreesWithOpcodeTable :
    decode 0x0000000000000000 = .instr .nop ∧ ∃ r ∈ opcodeTable, r.matches 0x0000000000000000 := by
  exact ⟨by decide, opcodeTable[14], by decide, by decide⟩

/-- The standard build has the command with its greatest operand; a build with an 8-bit operand has 255 and not 256. -/
theorem witness_StepRunsTheDecodedCommand :
    (issued [.command 0x12000000FFFFFFFF]).port.pending = .command 0x12000000FFFFFFFF :: [] ∧
    decode 0x12000000FFFFFFFF = .instr (.bbEbv 0xFFFFFFFF) ∧ presents Build.standard (.bbEbv 0xFFFFFFFF) = true ∧
    32 ≤ Build.standard.ebvValueBits ∧
    decode 0x1200000000000100 = .instr (.bbEbv 0x100) ∧ presents small (.bbEbv 0xFF) = true ∧
    presents small (.bbEbv 0x100) = false ∧ presents small (.selBuild 0 0 0 0 0x100) = false := by decide

theorem witness_IllegalWordOnlyReports :
    (issued [.command 0x0300000000000000]).port.pending = .command 0x0300000000000000 :: [] ∧
    ∀ r ∈ opcodeTable, ¬ r.matches 0x0300000000000000 := by decide

/-- A command that succeeds, one that clears the error bits, and one that fails. -/
theorem witness_ErrorsArePreciseAndRecorded :
    answers (exec .nop State.reset) = true ∧ answers (exec .clrerr (raise .width State.reset)) = true ∧
    answers (exec (.bbAppend 0 0) State.reset) = true ∧
    (got (exec (.bbAppend 0 0) State.reset)).lastResp = .err .width := by decide

theorem witness_EachCommandRaisesOnlyItsErrors :
    (issued [.command 0x0300000000000000]).port.pending = .command 0x0300000000000000 :: [] ∧
    decode 0x0300000000000000 = .illegal (.unassignedOpcode 0x03) := by decide

/-- A word with a reserved bit set whose width, 0, is also out of range; the checks of `BB_APPEND` and `SEL_BUILD` at their
boundaries. -/
theorem witness_FirstFailingCheckIsReported :
    (issued [.command 0x1100000100000000]).port.pending = .command 0x1100000100000000 :: [] ∧
    (∃ r ∈ opcodeTable, (0x1100000100000000 : CmdWord) &&& 0xFF00000000000000 = r.pattern ∧ ¬ r.matches 0x1100000100000000) ∧
    (got (exec (.bbAppend 32 0xFFFFFFFF) (filled 480))).lastResp = .ok ∧
    (got (exec (.bbAppend 32 0xFFFFFFFF) (filled 481))).lastResp = .err .overflow ∧
    (got (exec (.bbAppend 31 0xFFFFFFFF) (filled 512))).lastResp = .err .range ∧
    (got (exec (.bbAppend 0 1) (filled 512))).lastResp = .err .width ∧
    (got (exec (.bbEbv 0) (filled 504))).lastResp = .ok ∧
    (got (exec (.bbEbv 0) (filled 505))).lastResp = .err .overflow ∧
    (got (exec (.selBuild 4 7 3 255 0) State.reset)).lastResp = .ok ∧
    (got (exec (.selBuild 5 0 0 0 0) State.reset)).lastResp = .err .enum ∧
    (got (exec (.selBuild 0 8 0 0 0) State.reset)).lastResp = .err .enum ∧
    (got (exec (.selBuild 0 0 4 0 0) State.reset)).lastResp = .err .range ∧
    (got (exec (.selBuild 0 0 0 256 0) State.reset)).lastResp = .err .range := by
  refine ⟨rfl, ⟨opcodeTable[1], by decide, by decide, by decide⟩, ?_⟩
  decide +kernel

theorem witness_RegistersAreWrittenOnlyByTheirCommands :
    answers (exec (.crcByte 0) State.reset) = true ∧ RegGroup.packer ∉ writes (.crcByte 0) := by decide

/-- A command of each half, and two states that agree on one half and differ on the other. -/
theorem witness_TheTwoHalvesAreIndependent :
    inEncodeHalf (.crcByte 0) = true ∧ inDecodeHalf (.calDecode 0) = true ∧
    answers (exec (.crcByte 0) State.reset) = true ∧ answers (exec (.crcByte 0) stateA1) = true ∧
    State.reset.build = stateA1.build ∧ SameGroup State.reset stateA1 .crc ∧ ¬ SameGroup State.reset stateA1 .record := by
  refine ⟨rfl, rfl, rfl, rfl, rfl, rfl, ?_⟩
  unfold SameGroup
  decide +kernel

theorem witness_NopOnlyAnswersOk : opcodeOf 0x0000000000000001 = 0x00#8 ∧ (0x0000000000000001 : CmdWord) ≠ 0 := by decide

theorem witness_BothResetsGiveTheResetState : (issued [.reset]).port.pending = .reset :: [] := by decide

theorem witness_BbClearEmptiesTheBuffer :
    opcodeOf 0x1000000000000001 = 0x10#8 ∧ (0x1000000000000001 : CmdWord) ≠ 0x1000000000000000 := by decide

/-- The narrowest field at the start, and the widest that fills the buffer. -/
theorem witness_BbAppendWritesTheField :
    (State.reset.build.Legal ∧ BufSized State.reset ∧ 1 ≤ (1 : BitVec 6).toNat ∧ (1 : BitVec 6).toNat ≤ 32 ∧
      (1 : Word32).toNat < 2 ^ 1 ∧ State.reset.bitlen + (1 : BitVec 6).toNat ≤ State.reset.build.capBits) ∧
    ((filledSmall 288).build.Legal ∧ BufSized (filledSmall 288) ∧ 1 ≤ (32 : BitVec 6).toNat ∧ (32 : BitVec 6).toNat ≤ 32 ∧
      (0xFFFFFFFF : Word32).toNat < 2 ^ 32 ∧
      (filledSmall 288).bitlen + (32 : BitVec 6).toNat ≤ (filledSmall 288).build.capBits) := by
  unfold BufSized; decide

/-- A value of one group: it just fits, and just does not. -/
theorem witness_BbEbvWritesAllGroupsOrNone :
    (filled 504).build.Legal ∧ BufSized (filled 504) ∧
    (filled 504).bitlen + 8 * (ebvGroups (127 : Word32).toNat).length ≤ (filled 504).build.capBits ∧
    (ebvGroups (127 : Word32).toNat)[0]? = some 0x7F ∧
    (filled 505).bitlen + 8 * (ebvGroups (127 : Word32).toNat).length > (filled 505).build.capBits := by
  unfold BufSized; decide

/-- Both sides of each boundary between group counts (table 2.2a). -/
theorem witness_EbvGroupsAreTheMinimalDigits :
    ebvGroups 127 = [0x7F] ∧ ebvGroups 128 = [0x81, 0x00] ∧ ebvGroups 16383 = [0xFF, 0x7F] ∧
    ebvGroups 16384 = [0x81, 0x80, 0x00] ∧ (ebvGroups 2097151).length = 3 ∧ (ebvGroups 2097152).length = 4 ∧
    (ebvGroups 268435455).length = 4 ∧ ebvGroups 0xFFFFFFFF = [0x8F, 0xFF, 0xFF, 0xFF, 0x7F] := by decide

theorem witness_PackedContentIsTheConcatenation :
    State.reset.build.Legal ∧ BufSized State.reset ∧
    (∀ i ∈ [Instr.bbAppend 1 1, Instr.bbEbv 208], isAppend i = true) ∧ ZeroTail State.reset ∧
    State.reset.bitlen ≤ State.reset.build.capBits ∧ (runOk [.bbAppend 1 1, .bbEbv 208] State.reset).isSome = true :=
  ⟨by decide, rfl, by decide, fun k _ => bufBit_replicate _ k, by decide, by decide +kernel⟩

/-- The narrowest split, the widest, and a field of each extreme width. -/
theorem witness_AFieldEqualsItsParts :
    (1 ≤ 1 ∧ 1 + 1 ≤ 32 ∧ 3 < 2 ^ (1 + 1) ∧ (filled 510).bitlen + (1 + 1) ≤ (filled 510).build.capBits) ∧
    (1 ≤ 31 ∧ 31 + 1 ≤ 32 ∧ 0xFFFFFFFF < 2 ^ (31 + 1) ∧ (filled 480).bitlen + (31 + 1) ≤ (filled 480).build.capBits) ∧
    (1 ≤ 1 ∧ 1 < 2 ^ 1 ∧ (filled 511).bitlen + 1 ≤ (filled 511).build.capBits) ∧
    (32 ≤ 32 ∧ 0xFFFFFFFF < 2 ^ 32 ∧ (filled 480).bitlen + 32 ≤ (filled 480).build.capBits) := by decide

/-- The least and the greatest legal operands of `SEL_BUILD` (statements on successful builds), in two builds. -/
theorem witness_SelBuildBuildsTheFrame :
    State.reset.build.Legal ∧ (filledSmall 320).build.Legal ∧ selectLegal 0 0 0 0 ∧ selectLegal 4 7 3 255 := by
  unfold selectLegal; decide

/-- The shortest and the longest frame (R143). -/
theorem witness_SelectFrameLength :
    selectLegal 0 0 0 0 ∧ (got (exec (.selBuild 0 0 0 0 127) State.reset)).bitlen = 29 ∧
    selectLegal 4 7 3 255 ∧ (got (exec (.selBuild 4 7 3 255 268435456) State.reset)).bitlen = 316 := by
  unfold selectLegal; decide +kernel

/-- Legal operands, and each operand one past its bound. -/
theorem witness_SelBuildEqualsThePrimitiveCommands :
    State.reset.build.Legal ∧ (filledSmall 320).build.Legal ∧ selectLegal 4 7 3 255 ∧ ¬ selectLegal 5 7 3 255 ∧ ¬ selectLegal 4 8 3 255 ∧ ¬ selectLegal 4 7 4 255 ∧
    ¬ selectLegal 4 7 3 256 ∧
    (got (runCommands (primitiveFrame State.reset.build.selectCmdCode State.reset.mask 8 0 0 0 0) State.reset)).bitlen ≠ State.reset.bitlen := by
  unfold selectLegal; decide +kernel

theorem witness_SelectFrameParsesBack :
    State.reset.build.Legal ∧ (filledSmall 320).build.Legal ∧ selectLegal 0 0 0 0 ∧ selectLegal 4 7 3 255 := by
  unfold selectLegal; decide

/-- Two mask files that agree on 3 bits and differ after them. -/
theorem witness_TrailingMaskBitsAreIgnored :
    let s := got (exec (.maskLd 0 0xE0) State.reset)
    let s' := got (exec (.maskLd 0 0xFF) State.reset)
    s.build = s'.build ∧ selectLegal 4 0 3 3 ∧ s.mask ≠ s'.mask ∧ (∀ j, j < (3 : BitVec 12).toNat → maskBit s.mask j = maskBit s'.mask j) ∧
    answers (exec (.selBuild 4 0 3 3 0) s) = true ∧ answers (exec (.selBuild 4 0 3 3 0) s') = true := by
  unfold selectLegal; decide +kernel

theorem witness_CrcOutIsTheCrcOfTheStream :
    Instr.reset ∉ [Instr.crcByte 1, Instr.nop, Instr.crcWord 2] ∧
    Instr.crcInit ∉ [Instr.crcByte 1, Instr.nop, Instr.crcWord 2] := by decide

theorem witness_BytesAndWordsRoundTrip : ([] : List Byte).length % 2 = 0 ∧ ([1, 2] : List Byte).length % 2 = 0 := by decide

/-- A byte of an even index, one of an odd index. -/
theorem witness_CalLdbWritesOneByteOfTheImage :
    (0 < 8 ∧ (0 : BitVec 3).toNat = 0) ∧ (7 < 8 ∧ (7 : BitVec 3).toNat = 7) := by decide

/-- Another state with the same words and another record and CRC register. -/
theorem witness_CalDecodeNeverFails :
    let s' : State := { stateA1 with calw := State.reset.calw, crcReg := 0 }
    s'.build = State.reset.build ∧ s'.calw = State.reset.calw ∧ s'.cal ≠ State.reset.cal ∧
    answers (exec (.calDecode 1) s') = true := by decide +kernel

/-- Words that decode to a valid record, and words that do not (A1 and A2 of table 2.5). -/
theorem witness_VariantAValidity :
    answers (exec (.calDecode 0) (loaded 0x4BDB 0x76C8 0x9938 0x95E0)) = true ∧ stateA1.cal.valid = true ∧
    (got (exec (.calDecode 0) (loaded 0x5BFA 0x76C8 0x9938 0x95E1))).cal.valid = false := by decide +kernel

/-- A build of each word order, and word registers that are each other's exchange (B1 of table 2.5). -/
theorem witness_VariantBFieldsAndValidity :
    let s : State := { State.resetOf small with calw := #v[0x1B52, 0x7000, 0x1CE2, 0x8900] }
    let s' := loaded 0x7000 0x1B52 0x8900 0x1CE2
    s.build.varbWordOrder = .fptFirst ∧ s'.build.varbWordOrder = .codeFirst ∧ s'.calw = swapGroupWords s.calw := by
  decide +kernel

theorem witness_ReservedVariantsGiveAnInvalidRecord :
    ((2 : BitVec 2) = 2#2 ∨ (2 : BitVec 2) = 3#2) ∧ ((3 : BitVec 2) = 2#2 ∨ (3 : BitVec 2) = 3#2) ∧
    (5 ≤ (5 : Word16).toNat ∧ (5 : Word16).toNat ≤ 18 ∧ 1000 ≤ (1000 : Word16).toNat ∧ (1000 : Word16).toNat ≤ 3500) ∧
    (5 ≤ (18 : Word16).toNat ∧ (18 : Word16).toNat ≤ 18 ∧ 1000 ≤ (3500 : Word16).toNat ∧ (3500 : Word16).toNat ≤ 3500) := by
  decide

/-- A valid record with equal codes (B7), with power and code at the bounds. -/
theorem witness_MappableExactlyWhenValidAndCodesDiffer :
    CalRecord.absent.Constructed .fptFirst ∧ stateA1.cal.Constructed .codeFirst ∧ stateB7.cal.Constructed .codeFirst ∧ stateA1.cal.mappable = true ∧
    stateB7.cal.valid = true ∧ stateB7.cal.code2 = stateB7.cal.code1 ∧
    5 ≤ (5 : Word16).toNat ∧ (18 : Word16).toNat ≤ 18 ∧ 1000 ≤ (1000 : Word16).toNat ∧ (3500 : Word16).toNat ≤ 3500 :=
  ⟨.inl rfl, .inr ⟨0, _, rfl⟩, .inr ⟨1, _, rfl⟩, by decide +kernel, by decide +kernel, by decide +kernel, by decide, by decide,
    by decide, by decide⟩

/-- Records with a mapping, of each variant. -/
theorem witness_MappingRegistersAreExact :
    answers (exec (.calDecode 0) stateA1) = true ∧
    (got (exec (.calDecode 0) stateA1)).cal.mapping = some ⟨300, BitVec.ofInt 32 (-390000), 6000⟩ ∧
    answers (exec (.calDecode 1) stateB1) = true ∧
    (got (exec (.calDecode 1) stateB1)).cal.mapping = some ⟨6400, BitVec.ofInt 32 (-9868800), 64000⟩ := by decide +kernel

/-- The largest magnitudes (A9 and B10 of table 2.5). -/
theorem witness_MappingRanges :
    (got (exec (.calDecode 0) (loaded 0xC2E8 0xFFFF 0xFE00 0x0000))).cal.mapping =
      some ⟨BitVec.ofInt 32 (-2047), 3276000, BitVec.ofInt 32 (-40950)⟩ ∧
    (got (exec (.calDecode 1) (loaded 0xFFFF 0x17FF 0x0000 0x0000))).cal.mapping =
      some ⟨BitVec.ofInt 32 (-32752), 39321000, BitVec.ofInt 32 (-655350)⟩ := by decide +kernel

theorem witness_MappingInterpolatesTheReferencePairs :
    (got (exec (.calDecode 0) stateA1)).cal.mapping = some ⟨300, BitVec.ofInt 32 (-390000), 6000⟩ ∧
    (got (exec (.calDecode 1) stateB1)).cal.mapping = some ⟨6400, BitVec.ofInt 32 (-9868800), 64000⟩ := by decide +kernel

/-- A valid record of each variant, and a flip of word 0 bit 0 and of word 3 bit 15. -/
theorem witness_AnyFlippedBitInvalidatesTheRecord :
    answers (exec (.calDecode 0) stateA1) = true ∧ (got (exec (.calDecode 0) stateA1)).cal.valid = true ∧
    answers (exec (.calDecode 0) { stateA1 with calw := flipWordBit stateA1.calw 0 0 }) = true ∧
    (got (exec (.calDecode 1) stateB1)).cal.valid = true ∧
    answers (exec (.calDecode 1) { stateB1 with calw := flipWordBit stateB1.calw 3 15 }) = true := by decide +kernel

/-- The moisture channel on both sides of each bound (table 2.6a). -/
theorem witness_ClassifyMoistureChannel :
    (4 : Word16).toNat < 5 ∧ (22 : Word16).toNat > 21 ∧ (5 ≤ (5 : Word16).toNat ∧ (21 : Word16).toNat ≤ 21) ∧
    (got (exec (.classify 300 4 0) State.reset)).moistStatus = .powerLow ∧
    (got (exec (.classify 300 5 0) State.reset)).moistStatus = .ok ∧
    (got (exec (.classify 300 21 0) State.reset)).moistStatus = .ok ∧
    (got (exec (.classify 300 22 0) State.reset)).moistStatus = .powerHigh := by decide

/-- The temperature channel on both sides of each bound, with record A1 and without a record (tables 2.6a and 2.6b). -/
theorem witness_ClassifyTemperaturePrecedence :
    stateA1.cal.Consistent ∧ State.reset.cal.Consistent ∧ stateB7.cal.Consistent ∧
    stateA1.cal.mapping = some ⟨300, BitVec.ofInt 32 (-390000), 6000⟩ ∧ (6000 : Word32) ≠ 0#32 ∧
    (got (exec (.classify 0 4 1000) stateA1)).tempStatus = .powerLow ∧
    (got (exec (.classify 0 5 1000) stateA1)).tempStatus = .ok ∧
    (got (exec (.classify 0 18 3500) stateA1)).tempStatus = .ok ∧
    (got (exec (.classify 0 19 3500) stateA1)).tempStatus = .powerHigh ∧
    (got (exec (.classify 0 5 999) stateA1)).tempStatus = .badRead ∧
    (got (exec (.classify 0 18 3501) stateA1)).tempStatus = .badRead ∧
    (got (exec (.classify 0 18 1000) State.reset)).tempStatus = .calAbsent ∧
    (got (exec (.classify 0 12 2200) stateB7)).tempStatus = .calInvalid := by
  unfold CalRecord.Consistent; decide +kernel

/-- A non-zero denominator, and a tie. -/
theorem witness_RoundingIsToNearestTiesAway :
    (200 : Int) ≠ 0 ∧ 2 * |round100 1 200 * 200 - 100 * 1| = |(200 : Int)| := by decide

/-- Records A1 and B1, with power and code at the bounds. -/
theorem witness_TemperatureValueIsExact :
    stateA1.cal.Constructed .codeFirst ∧ stateB1.cal.Constructed .codeFirst ∧
    stateA1.cal.mapping = some ⟨300, BitVec.ofInt 32 (-390000), 6000⟩ ∧ stateA1.cal.variant = 0#2 ∧
    stateB1.cal.mapping = some ⟨6400, BitVec.ofInt 32 (-9868800), 64000⟩ ∧ stateB1.cal.variant = 1#2 ∧
    5 ≤ (5 : Word16).toNat ∧ (18 : Word16).toNat ≤ 18 ∧ 1000 ≤ (1000 : Word16).toNat ∧ (3500 : Word16).toNat ≤ 3500 :=
  ⟨.inr ⟨0, _, rfl⟩, .inr ⟨1, _, rfl⟩, by decide +kernel, by decide +kernel, by decide +kernel, by decide +kernel, by decide,
    by decide, by decide, by decide⟩

/-- Both slots, and both sides of each bound (table 2.7). -/
theorem witness_ClsBackWritesOneSlot :
    (0 : Fin 2).val = (0 : BitVec 1).toNat ∧ (1 : Fin 2).val ≠ (0 : BitVec 1).toNat ∧ (1 : Fin 2).val = (1 : BitVec 1).toNat ∧
    (4 : Word16).toNat < 5 ∧ (5 ≤ (5 : Word16).toNat ∧ (18 : Word16).toNat ≤ 18) ∧ (19 : Word16).toNat > 18 := by decide

theorem witness_ClassificationIsPure :
    State.reset.cal = (filled 45).cal ∧ answers (exec (.classify 1 2 3) State.reset) = true ∧
    answers (exec (.classify 1 2 3) (filled 45)) = true ∧ answers (exec (.clsBack 1 2 3) State.reset) = true ∧
    answers (exec (.clsBack 1 2 3) (filled 45)) = true ∧ (1 : Fin 2).val = (1 : BitVec 1).toNat := by decide

/-- A pending read; a read of an ordinary register, of a mapping register while a mapping exists, and of the last byte of the
buffer in two builds. -/
theorem witness_ReadsHaveNoSideEffect :
    (issued [.read (.reg 0x19)]).port.pending = .read (.reg 0x19) :: [] ∧
    ¬ ((ReadReq.reg 0x00).isMapping ∧ State.reset.cal.mappable = false) ∧
    ¬ ((ReadReq.reg 0x19).isMapping ∧ stateA1.cal.mappable = false) ∧
    ¬ ((ReadReq.buf 63).isMapping ∧ State.reset.cal.mappable = false) ∧
    63 < State.reset.build.capBytes ∧ 39 < (filledSmall 0).build.capBytes := by
  refine ⟨rfl, ?_, fun h => absurd h.2 (by decide +kernel), fun h => h.1, by decide, by decide⟩
  unfold ReadReq.isMapping
  decide

/-- A mapping that exists, and unmapped addresses at the edges of the table's gaps. -/
theorem witness_RegisterMap :
    (filled 512).build.Legal ∧ (filled 512).bitlen ≤ (filled 512).build.capBits ∧
    stateA1.cal.mapping = some ⟨300, BitVec.ofInt 32 (-390000), 6000⟩ ∧
    (0x05 : BitVec 8).toNat ∉ mappedRegs ∧ (0x07 : BitVec 8).toNat ∉ mappedRegs ∧ (0x0C : BitVec 8).toNat ∉ mappedRegs ∧
    (0x1C : BitVec 8).toNat ∉ mappedRegs ∧ (0x28 : BitVec 8).toNat ∉ mappedRegs ∧ (0xFF : BitVec 8).toNat ∉ mappedRegs := by
  decide +kernel

theorem witness_UnmappedMappingReadsAnything :
    (ReadReq.reg 0x19).isMapping ∧ (ReadReq.reg 0x1B).isMapping ∧ State.reset.cal.mappable = false := by
  unfold ReadReq.isMapping
  decide

/-- The last byte of the buffer in two builds, and the one past it. -/
theorem witness_ByteViews :
    63 < State.reset.build.capBits / 8 ∧ ¬ 64 < State.reset.build.capBits / 8 ∧ 39 < (filledSmall 0).build.capBits / 8 := by
  decide

/-- The first word of the buffer, and the last, in two builds. -/
theorem witness_AlignedWordReadsBigEndian :
    (State.reset.build.Legal ∧ BufSized State.reset ∧ State.reset.bitlen % 8 = 0 ∧
      State.reset.bitlen + 16 ≤ State.reset.build.capBits) ∧
    ((filledSmall 304).build.Legal ∧ BufSized (filledSmall 304) ∧ (filledSmall 304).bitlen % 8 = 0 ∧
      (filledSmall 304).bitlen + 16 ≤ (filledSmall 304).build.capBits) := by
  unfold BufSized; decide

/-- Two legal builds. -/
theorem witness_ResetMeetsTheInvariant : Build.standard.Legal ∧ small.Legal := by decide

/-- A state that meets the invariant, with a command pending, steps to a next state. -/
theorem witness_EveryStepKeepsTheInvariant :
    (issued [.command 0x3200000000000001]).Inv ∧ answers (step (issued [.command 0x3200000000000001])) = true := by
  refine ⟨⟨by decide, rfl, by decide, fun k _ => bufBit_replicate _ k, rfl, fun e h => ?_, ⟨fun h => ?_, fun h => ?_⟩, .inl rfl,
    ?_, fun _ => rfl, fun n => ?_⟩, by decide⟩
  · simp [issued, withPending, State.reset, State.resetOf] at h
  · simp [issued, withPending, State.reset, State.resetOf, CalRecord.absent, CalRecord.mappable] at h
  · simp [issued, withPending, State.reset, State.resetOf, CalRecord.absent] at h
  · simp [issued, withPending, State.reset, State.resetOf, Status.IsPowerOnly]
  · simp [issued, withPending, State.reset, State.resetOf, Status.IsPowerOnly]

end Sys2Proof.Tests
end

/-! # Proofs of the family 00_scope: what a command answers, the invariant, the two halves

The facts the four statements share come first: `exec` as one equation (`exec_eq_answer`), the widths of EBV encodings and Select
frames, and what keeps `State.Inv`. -/

section

namespace Sys2Proof.Machine

open Sys2Proof.Config

/-! ### What a command answers -/

/-- The error the checks of a command report, in their fixed order; nothing where every check passes (R262, R264). -/
def firstError : Instr → State → Option Err
  | .bbAppend width value, s =>
      if width.toNat < fieldMinWidth ∨ width.toNat > fieldMaxWidth then some .width
      else if value.toNat ≥ 2 ^ width.toNat then some .range
      else if overflows s width.toNat then some .overflow
      else Option.none
  | .bbEbv value, s => if overflows s (ebvWidth value.toNat) then some .overflow else Option.none
  | .selBuild target action bank masklen _, _ =>
      if target.toNat > 4 then some .enum
      else if action.toNat > 7 then some .enum
      else if bank.toNat > 3 then some .range
      else if masklen.toNat > 255 then some .range
      else Option.none
  | _, _ => Option.none

/-- The state a command answers: its error raised on the state before, or its effect with response `OK` (R14, R263). -/
def answer (i : Instr) (s : State) : State := (firstError i s).elim (respondOk (effect i s)) (raise · s)

theorem answer_of_none {i : Instr} {s : State} (h : firstError i s = Option.none) : answer i s = respondOk (effect i s) := by
  simp [answer, h]

theorem answer_of_some {i : Instr} {s : State} {e : Err} (h : firstError i s = some e) : answer i s = raise e s := by
  simp [answer, h]

/-- Executing a command always answers, and the checks alone decide between its effect and an error (R263, R271). -/
theorem exec_eq_answer (i : Instr) (s : State) : exec i s = .next (answer i s) := by
  cases i
  case bbAppend => simp only [exec, execBbAppend, answer, firstError]; split_ifs <;> rfl
  case bbEbv => simp only [exec, execBbEbv, answer, firstError]; split_ifs <;> rfl
  case selBuild => simp only [exec, execSelBuild, answer, firstError]; split_ifs <;> rfl
  all_goals rfl

theorem exec_eq_next {i : Instr} {s t : State} : exec i s = .next t ↔ answer i s = t := by
  rw [exec_eq_answer, Host.Outcome.next.injEq]

/-! ### When the checks pass -/

theorem fits_of_bbAppend {width : BitVec 6} {value : Word32} {s : State}
    (h : firstError (.bbAppend width value) s = Option.none) : s.bitlen + width.toNat ≤ s.build.capBits := by
  simp only [firstError] at h
  split_ifs at h with _ _ hover
  exact Nat.le_of_not_gt hover

theorem fits_of_bbEbv {value : Word32} {s : State} (h : firstError (.bbEbv value) s = Option.none) :
    s.bitlen + ebvWidth value.toNat ≤ s.build.capBits := by
  simp only [firstError] at h
  split_ifs at h with hover
  exact Nat.le_of_not_gt hover

theorem masklen_le_of_selBuild {target action bank : BitVec 4} {masklen : BitVec 12} {pointer : Word32} {s : State}
    (h : firstError (.selBuild target action bank masklen pointer) s = Option.none) : masklen.toNat ≤ 255 := by
  simp only [firstError] at h
  split_ifs at h with _ _ _ hlen
  exact Nat.le_of_not_gt hlen

/-! ### Widths of encodings -/

@[simp] theorem length_ebvGroups (v : Nat) : (ebvGroups v).length = ebvCount v := by simp [ebvGroups]

theorem length_bitsOf_append (fs gs : List BitField) :
    (bitsOf (fs ++ gs)).length = (bitsOf fs).length + (bitsOf gs).length := by
  simp [length_bitsOf]

/-- Bytes appended as fields take 8 bits each. -/
theorem length_bitsOf_map_byte {α : Type} (f : α → BitField) (hf : ∀ a, (f a).width = 8) (xs : List α) :
    (bitsOf (xs.map f)).length = 8 * xs.length := by
  have h8 : BitField.width ∘ f = fun _ => 8 := funext hf
  simp [length_bitsOf, h8, Nat.mul_comm]

/-- The fields of an EBV encoding take `EBV-width` bits (R102, R122). -/
theorem length_bitsOf_ebvFields (v : Nat) : (bitsOf (ebvFields v)).length = ebvWidth v :=
  length_bitsOf_map_byte _ (fun _ => rfl) _

/-- The loop of R124 stops at `m` groups at the latest where `m` groups hold the value. -/
theorem ebvCountFrom_le {v m : Nat} (hv : v < 128 ^ m) (fuel : Nat) {n : Nat} (hn : n ≤ m) : ebvCountFrom v fuel n ≤ m := by
  induction fuel generalizing n with
  | zero => exact hn
  | succ fuel ih =>
    unfold ebvCountFrom
    split
    · next hne =>
      have : n ≠ m := fun e => hne (e ▸ Nat.div_eq_of_lt hv)
      exact ih (by omega)
    · exact hn

/-- A 32-bit value takes at most five EBV groups (R102). -/
theorem ebvWidth_le (v : Word32) : ebvWidth v.toNat ≤ 40 := by
  have hcount : ebvCount v.toNat ≤ 5 := ebvCountFrom_le (Nat.lt_of_lt_of_le v.isLt (by decide)) _ (by decide)
  unfold ebvWidth ebvGroupBits
  rw [length_ebvGroups]
  omega

/-- The mask of a Select frame takes `masklen` bits (R141, R142). -/
theorem length_bitsOf_maskFields (m : MaskFile) (masklen : Nat) : (bitsOf (maskFields m masklen)).length = masklen := by
  unfold maskFields
  rw [length_bitsOf_append, length_bitsOf_map_byte _ fun _ => rfl, List.length_range]
  split
  · simp [length_bitsOf]; omega
  · simp [length_bitsOf]; omega

/-- The length of a Select frame (R143). -/
theorem length_bitsOf_selectFields (cmdCode : BitVec 4) (m : MaskFile) (target action bank : BitVec 4) (masklen : BitVec 12)
    (pointer : Word32) :
    (bitsOf (selectFields cmdCode m target action bank masklen pointer)).length =
      21 + ebvWidth pointer.toNat + masklen.toNat := by
  simp only [selectFields, selectHead, length_bitsOf_append, length_bitsOf_ebvFields, length_bitsOf_maskFields]
  simp [length_bitsOf, fieldOf]
  omega

/-! ### The registers a command may change keep their part of the invariant -/

theorem capBits_eq {b : Build} (h : b.Legal) : 8 * b.capBytes = b.capBits := by
  obtain ⟨-, hmod, -⟩ := h
  unfold Build.capBytes
  omega

theorem absent_consistent : CalRecord.absent.Consistent := by simp [CalRecord.Consistent, CalRecord.absent]

@[simp] theorem withMapping_present (r : CalRecord) : (withMapping r).present = r.present := rfl
@[simp] theorem withMapping_valid (r : CalRecord) : (withMapping r).valid = r.valid := rfl
@[simp] theorem withMapping_mappable (r : CalRecord) : (withMapping r).mappable = mappableOf r.valid r.code1 r.code2 := by
  unfold withMapping CalRecord.mappable
  split <;> simp_all

/-- Every decoded record is present (R185, R188, R190). -/
theorem decodeRecord_present (order : WordOrder) (variant : BitVec 2) (w : WordFile) :
    (decodeRecord order variant w).present = true := by
  unfold decodeRecord
  rw [withMapping_present]
  split_ifs
  · rfl
  · cases order <;> rfl
  · rfl

/-- A record gets a mapping only when it is valid (R192). -/
theorem valid_of_mappable_withMapping {r : CalRecord} (h : (withMapping r).mappable = true) : (withMapping r).valid = true := by
  rw [withMapping_mappable, mappableOf, Bool.and_eq_true] at h
  exact h.1

theorem decodeRecord_consistent (order : WordOrder) (variant : BitVec 2) (w : WordFile) :
    (decodeRecord order variant w).Consistent :=
  ⟨valid_of_mappable_withMapping, fun _ => decodeRecord_present order variant w⟩

/-- A moisture or backport channel as R36 and R38 allow it: a power status, and the value 0 unless it is `ST_OK`. -/
def ChannelOk (c : Status × Word16) : Prop := c.1.IsPowerOnly ∧ (c.1 ≠ .ok → c.2 = 0#16)

theorem moistChannel_ok (moist ocrssi : Word16) : ChannelOk (moistChannel moist ocrssi) := by
  unfold moistChannel
  split_ifs <;> simp [ChannelOk, Status.IsPowerOnly]

theorem backChannel_ok (ocrssi code : Word16) : ChannelOk (backChannel ocrssi code) := by
  unfold backChannel
  split_ifs <;> simp [ChannelOk, Status.IsPowerOnly]

/-- `TEMP_VALUE` is 0 on every branch but the last (R37, R222). -/
theorem tempChannel_value (cal : CalRecord) (ocrssi temp : Word16) (h : (tempChannel cal ocrssi temp).1 ≠ .ok) :
    (tempChannel cal ocrssi temp).2 = 0#32 := by
  revert h
  unfold tempChannel
  cases cal.mapping with
  | none => split_ifs <;> exact fun _ => rfl
  | some m => split_ifs <;> simp

/-- The bit of an error is none of the reserved ones (R40, R260). -/
theorem errBit_reserved (e : Err) : errBit e &&& 0xC1#8 = 0#8 := by cases e <;> decide

theorem errBit_getLsbD (e : Err) : (errBit e).getLsbD (errCode e) = true := by cases e <;> decide

/-! ### What keeps the invariant -/

/-- The state after reset meets the invariant. -/
theorem inv_resetOf {b : Build} (h : b.Legal) : (State.resetOf b).Inv where
  legal := h
  bufSized := List.length_replicate
  bitlen_le := Nat.zero_le _
  zeroTail k _ := bufBit_replicate _ k
  sticky_reserved := BitVec.zero_and
  sticky_last _ he := by cases he
  consistent := absent_consistent
  constructed := .inl rfl
  moist := ⟨.inl rfl, fun _ => rfl⟩
  temp _ := rfl
  back n := by simp [State.resetOf, Status.IsPowerOnly]

section Keeps

variable {s : State}

/-- The host's side of the ports has no part in the invariant (assumption log 2). -/
theorem inv_withPort (h : s.Inv) (p : HostPort) : { s with port := p }.Inv := { h with }

theorem inv_resetRegisters (h : s.Inv) : (resetRegisters s).Inv := inv_withPort (inv_resetOf h.legal) s.port

theorem inv_respondOk (h : s.Inv) : (respondOk s).Inv := { h with sticky_last := fun _ he => by cases he }

/-- `CLRERR` clears the bit of the last error and replaces that error by `OK` (R252). -/
theorem inv_respondOk_clearErrors (h : s.Inv) : (respondOk (clearErrors s)).Inv :=
  { h with
    sticky_reserved := BitVec.zero_and
    sticky_last := fun _ he => by cases he }

/-- An error sets its own bit and no reserved one (R40, R263). -/
theorem inv_raise (h : s.Inv) (e : Err) : (raise e s).Inv :=
  { h with
    sticky_reserved := by
      rw [raise_errSticky, BitVec.and_or_distrib_right, h.sticky_reserved, errBit_reserved, BitVec.or_zero]
    sticky_last := fun e' he => by
      obtain rfl : e = e' := by simpa using he
      simp [errBit_getLsbD] }

theorem inv_clearBuffer (h : s.Inv) : (clearBuffer s).Inv :=
  { h with
    bufSized := List.length_replicate
    bitlen_le := Nat.zero_le _
    zeroTail := fun k _ => bufBit_replicate _ k }

/-- Fields that fit the buffer leave a zero tail behind them (R23, R123). -/
theorem inv_putAll (h : s.Inv) {fs : List BitField} (hfit : s.bitlen + (bitsOf fs).length ≤ s.build.capBits) :
    (putAll s fs).Inv := by
  have hcap : 8 * s.buf.length = s.build.capBits := by rw [h.bufSized, capBits_eq h.legal]
  rw [putAll_eq]
  exact
    { h with
      bufSized := (length_writeBits _ _ _).trans h.bufSized
      bitlen_le := hfit
      zeroTail := fun k (hk : s.bitlen + (bitsOf fs).length ≤ k) => by
        show bufBit (writeBits s.buf s.bitlen (bitsOf fs)) k = false
        rw [bufBit_writeBits _ _ _ _ (by omega), if_neg (by omega)]
        exact h.zeroTail k (by omega) }

/-- A Select frame fits the least capacity: 21 + 40 + 255 bits at most (R7, R141, R143). -/
theorem inv_selectFrame (h : s.Inv) (target action bank : BitVec 4) {masklen : BitVec 12} (hlen : masklen.toNat ≤ 255)
    (pointer : Word32) :
    (putAll (clearBuffer s) (selectFields s.build.selectCmdCode s.mask target action bank masklen pointer)).Inv := by
  refine inv_putAll (inv_clearBuffer h) ?_
  have hptr := ebvWidth_le pointer
  obtain ⟨hcap, -⟩ := h.legal
  rw [length_bitsOf_selectFields, clearBuffer_bitlen, clearBuffer_build]
  omega

theorem inv_cal (h : s.Inv) {r : CalRecord} (hcons : r.Consistent) (hmade : r.Constructed s.build.varbWordOrder) :
    { s with cal := r }.Inv :=
  { h with consistent := hcons, constructed := hmade }

theorem inv_classify (h : s.Inv) (moist ocrssi temp : Word16) : (effect (.classify moist ocrssi temp) s).Inv :=
  { h with moist := moistChannel_ok moist ocrssi, temp := tempChannel_value s.cal ocrssi temp }

theorem inv_clsBack (h : s.Inv) (n : BitVec 1) (ocrssi code : Word16) : (effect (.clsBack n ocrssi code) s).Inv :=
  { h with
    back := fun k => by
      by_cases hk : n.toNat = k
      · simpa [effect, hk, ChannelOk] using backChannel_ok ocrssi code
      · simpa [effect, Vector.getElem_set, hk] using h.back k }

/-- Every command keeps the invariant. -/
theorem inv_answer (h : s.Inv) (i : Instr) : (answer i s).Inv := by
  cases hi : firstError i s with
  | some e => rw [answer_of_some hi]; exact inv_raise h e
  | none =>
    rw [answer_of_none hi]
    cases i with
    | clrerr => exact inv_respondOk_clearErrors h
    | nop => exact inv_respondOk h
    | reset => exact inv_respondOk (inv_resetRegisters h)
    | bbClear => exact inv_respondOk (inv_clearBuffer h)
    | bbAppend width value =>
      exact inv_respondOk (inv_putAll (fs := [_]) h (by simpa [length_bitsOf] using fits_of_bbAppend hi))
    | bbEbv value => exact inv_respondOk (inv_putAll h (by rw [length_bitsOf_ebvFields]; exact fits_of_bbEbv hi))
    | selBuild target action bank masklen pointer =>
      exact inv_respondOk (inv_selectFrame h target action bank (masklen_le_of_selBuild hi) pointer)
    -- `MASK`, `CRC_REG` and `CALW` have no part in the invariant.
    | maskLd | crcInit | crcByte | crcWord | calLdw | calLdb => exact inv_respondOk { h with }
    | calDecode variant =>
      exact inv_respondOk (inv_cal h (decodeRecord_consistent _ _ _) (.inr ⟨variant, s.calw, rfl⟩))
    | calClear => exact inv_respondOk (inv_cal h absent_consistent (.inl rfl))
    | classify moist ocrssi temp => exact inv_respondOk (inv_classify h moist ocrssi temp)
    | clsBack n ocrssi code => exact inv_respondOk (inv_clsBack h n ocrssi code)

end Keeps

/-! ### No command and no step changes the build -/

@[simp] theorem effect_build (i : Instr) (s : State) : (effect i s).build = s.build := by
  cases i
  case bbEbv => exact putAll_build _ _
  case selBuild => exact putAll_build _ _
  all_goals rfl

@[simp] theorem answer_build (i : Instr) (s : State) : (answer i s).build = s.build := by
  cases hi : firstError i s with
  | some e => rw [answer_of_some hi, raise_build]
  | none => rw [answer_of_none hi, respondOk_build, effect_build]

/-- Whatever the host has issued, a step answers a state of the same build that meets the invariant. -/
theorem step_keeps_inv {s : State} (h : s.Inv) : ∃ t, step s = .next t ∧ t.Inv ∧ t.build = s.build := by
  have htaken (rest : List HostInput) : (withPending rest s).Inv := inv_withPort h _
  rcases step_cases s with ⟨-, hs⟩ | ⟨r, rest, -, hs⟩ | ⟨rest, -, hs⟩ | ⟨w, rest, i, -, -, -, hs⟩ | ⟨w, rest, -, -, hs⟩
  · exact ⟨_, hs, h, rfl⟩
  · exact ⟨_, hs, inv_withPort (htaken rest) _, rfl⟩
  · exact ⟨_, hs, inv_resetRegisters (htaken rest), rfl⟩
  · exact ⟨_, hs.trans (exec_eq_answer i _), inv_answer (htaken rest) i, answer_build i _⟩
  · exact ⟨_, hs, inv_raise (htaken rest) _, rfl⟩

/-- Settles O60: one lemma per operation keeps `State.Inv`, the commands are assembled from them, and a step from the commands. -/
theorem everyStepKeepsTheInvariant : Obligations.EveryStepKeepsTheInvariant := by
  intro s t hinv hstep
  obtain ⟨t', hstep', ht'⟩ := step_keeps_inv hinv
  obtain rfl : t' = t := Host.Outcome.next.inj (hstep'.symm.trans hstep)
  exact ht'

/-- Settles O59: `inv_resetOf` for every legal build, and the standard build is legal. -/
theorem resetMeetsTheInvariant : Obligations.ResetMeetsTheInvariant :=
  ⟨fun _ => inv_resetOf, inv_resetOf (by decide)⟩

/-! ### The step on a command word -/

/-- A word that spells a command the build has: the step is that command (R9). -/
theorem step_command {s : State} {w : CmdWord} {rest : List HostInput} {i : Instr} (hpending : s.port.pending = .command w :: rest)
    (hdecode : decode w = .instr i) (hhas : presents s.build i = true) : step s = exec i (withPending rest s) := by
  unfold step
  rw [takeInput_eq_some hpending]
  simp [hdecode, hhas]

/-- A word that spells a command the build does not have: the step reports an illegal command (R261, assumption log 1). -/
theorem step_command_of_not_presents {s : State} {w : CmdWord} {rest : List HostInput} {i : Instr}
    (hpending : s.port.pending = .command w :: rest) (hdecode : decode w = .instr i) (hlacks : presents s.build i = false) :
    step s = .next (illegalCommand (withPending rest s)) := by
  unfold step
  rw [takeInput_eq_some hpending]
  simp [hdecode, hlacks]

/-- Settles O5: the two cases of a word that decodes, and that a build with the full operand has every command. -/
theorem stepRunsTheDecodedCommand : Obligations.StepRunsTheDecodedCommand :=
  ⟨fun _ _ _ _ hpending hdecode => ⟨step_command hpending hdecode, step_command_of_not_presents hpending hdecode⟩,
    fun _ i hfull => presents_of_full hfull i⟩

/-! ### The two halves -/

section SameGroup

variable {s t u : State} {g : RegGroup}

theorem SameGroup.refl (s : State) (g : RegGroup) : SameGroup s s g := by cases g <;> simp [SameGroup]

theorem SameGroup.symm (h : SameGroup s t g) : SameGroup t s g := by cases g <;> simp_all [SameGroup]

theorem SameGroup.trans (h : SameGroup s t g) (h' : SameGroup t u g) : SameGroup s u g := by
  cases g <;> simp_all [SameGroup]

/-- A register of one of the halves: neither of the two that the end of a command writes (R3, R263). -/
def RegGroup.InHalf (g : RegGroup) : Prop := g ∈ encodeHalf ∨ g ∈ decodeHalf

theorem sameGroup_respondOk (hg : g.InHalf) : SameGroup s (respondOk s) g := by
  cases g <;> simp_all [RegGroup.InHalf, encodeHalf, decodeHalf, SameGroup]

theorem sameGroup_raise (hg : g.InHalf) (e : Err) : SameGroup s (raise e s) g := by
  cases g <;> simp_all [RegGroup.InHalf, encodeHalf, decodeHalf, SameGroup]

/-- What a command's effect keeps, the command keeps: an error discards the effect (R263). -/
theorem sameGroup_answer {i : Instr} (hg : g.InHalf) (h : SameGroup s (effect i s) g) : SameGroup s (answer i s) g := by
  cases hi : firstError i s with
  | some e => rw [answer_of_some hi]; exact sameGroup_raise hg e
  | none => rw [answer_of_none hi]; exact h.trans (sameGroup_respondOk hg)

/-- Two states in which a command's checks come out the same agree on a register after the command when they agree on it before
and the effects do. -/
theorem sameGroup_answer_answer {i : Instr} (hg : g.InHalf) (herr : firstError i s = firstError i t) (h : SameGroup s t g)
    (heff : SameGroup (effect i s) (effect i t) g) : SameGroup (answer i s) (answer i t) g := by
  cases hi : firstError i t with
  | some e =>
    rw [answer_of_some hi, answer_of_some (herr.trans hi)]
    exact (sameGroup_raise hg e).symm.trans (h.trans (sameGroup_raise hg e))
  | none =>
    rw [answer_of_none hi, answer_of_none (herr.trans hi)]
    exact (sameGroup_respondOk hg).symm.trans (heff.trans (sameGroup_respondOk hg))

/-- The response depends on the checks alone. -/
theorem answer_lastResp_congr {i : Instr} (herr : firstError i s = firstError i t) :
    (answer i s).lastResp = (answer i t).lastResp := by
  cases hi : firstError i t with
  | some e => rw [answer_of_some hi, answer_of_some (herr.trans hi), raise_lastResp, raise_lastResp]
  | none => rw [answer_of_none hi, answer_of_none (herr.trans hi), respondOk_lastResp, respondOk_lastResp]

/-- The checks of a command read `BITLEN` and the build, and no other register (R264). -/
theorem firstError_congr (i : Instr) (hlen : s.bitlen = t.bitlen) (hbuild : s.build = t.build) :
    firstError i s = firstError i t := by
  cases i
  case bbAppend => simp only [firstError, overflows, hlen, hbuild]
  case bbEbv => simp only [firstError, overflows, hlen, hbuild]
  all_goals rfl

/-- No command of the decode half has a check (R262). -/
theorem firstError_of_inDecodeHalf {i : Instr} (hi : inDecodeHalf i = true) (s : State) : firstError i s = Option.none := by
  cases i
  case bbAppend | bbEbv | selBuild => cases hi
  all_goals rfl

end SameGroup

/-- Agreement on the encode half, register by register (R3). -/
theorem forall_encodeHalf {s t : State} :
    (∀ g ∈ encodeHalf, SameGroup s t g) ↔ (t.buf = s.buf ∧ t.bitlen = s.bitlen) ∧ t.mask = s.mask ∧ t.crcReg = s.crcReg := by
  simp [encodeHalf, SameGroup]

/-- Agreement on the decode half, register by register (R3). -/
theorem forall_decodeHalf {s t : State} :
    (∀ g ∈ decodeHalf, SameGroup s t g) ↔
      t.calw = s.calw ∧ t.cal = s.cal ∧
      (t.moistStatus = s.moistStatus ∧ t.moistValue = s.moistValue ∧ t.tempStatus = s.tempStatus ∧ t.tempValue = s.tempValue) ∧
      t.backStatus = s.backStatus ∧ t.backValue = s.backValue := by
  simp [decodeHalf, SameGroup]

section Halves

variable {i : Instr} {s s' : State}

/-- A command of the encode half writes no register of the decode half (R20). -/
theorem effect_keeps_decodeHalf (hi : inEncodeHalf i = true) : ∀ g ∈ decodeHalf, SameGroup s (effect i s) g := by
  rw [forall_decodeHalf]
  cases i
  case nop | reset | clrerr | calLdw | calLdb | calDecode | calClear | classify | clsBack => cases hi
  all_goals simp [effect, putAll_eq]

/-- A command of the decode half writes no register of the encode half (R20, R197). -/
theorem effect_keeps_encodeHalf (hi : inDecodeHalf i = true) : ∀ g ∈ encodeHalf, SameGroup s (effect i s) g := by
  rw [forall_encodeHalf]
  cases i
  case nop | reset | clrerr | bbClear | bbAppend | bbEbv | maskLd | selBuild | crcInit | crcByte | crcWord => cases hi
  all_goals simp [effect]

/-- A command of the encode half reads only that half and the build (R3). -/
theorem effect_congr_encodeHalf (hi : inEncodeHalf i = true) (hbuild : s.build = s'.build)
    (h : ∀ g ∈ encodeHalf, SameGroup s s' g) : ∀ g ∈ encodeHalf, SameGroup (effect i s) (effect i s') g := by
  obtain ⟨⟨hbuf, hlen⟩, hmask, hcrc⟩ := forall_encodeHalf.mp h
  rw [forall_encodeHalf]
  cases i
  case nop | reset | clrerr | calLdw | calLdb | calDecode | calClear | classify | clsBack => cases hi
  all_goals simp [effect, putAll_eq, hbuild, hbuf, hlen, hmask, hcrc]

/-- A command of the decode half reads only that half and the build (R3, R197). -/
theorem effect_congr_decodeHalf (hi : inDecodeHalf i = true) (hbuild : s.build = s'.build)
    (h : ∀ g ∈ decodeHalf, SameGroup s s' g) : ∀ g ∈ decodeHalf, SameGroup (effect i s) (effect i s') g := by
  obtain ⟨hcalw, hcal, hreading, hback⟩ := forall_decodeHalf.mp h
  rw [forall_decodeHalf]
  cases i
  case nop | reset | clrerr | bbClear | bbAppend | bbEbv | maskLd | selBuild | crcInit | crcByte | crcWord => cases hi
  all_goals simp [effect, hbuild, hcalw, hcal, hreading, hback]

end Halves

/-- Settles O12: what each half's effects keep and read, carried over the end of the command. -/
theorem theTwoHalvesAreIndependent : Obligations.TheTwoHalvesAreIndependent := by
  intro i own other hcase s t s' t' hs hs'
  obtain rfl := exec_eq_next.mp hs
  obtain rfl := exec_eq_next.mp hs'
  rcases hcase with ⟨hi, rfl, rfl⟩ | ⟨hi, rfl, rfl⟩
  · refine ⟨fun g hg => sameGroup_answer (.inr hg) (effect_keeps_decodeHalf hi g hg), fun hbuild hown => ?_⟩
    have hlen : s.bitlen = s'.bitlen := (hown .packer (by decide)).2.symm
    have herr := firstError_congr i hlen hbuild
    exact ⟨fun g hg => sameGroup_answer_answer (.inl hg) herr (hown g hg) (effect_congr_encodeHalf hi hbuild hown g hg),
      answer_lastResp_congr herr⟩
  · refine ⟨fun g hg => sameGroup_answer (.inl hg) (effect_keeps_encodeHalf hi g hg), fun hbuild hown => ?_⟩
    have herr := (firstError_of_inDecodeHalf hi s).trans (firstError_of_inDecodeHalf hi s').symm
    exact ⟨fun g hg => sameGroup_answer_answer (.inr hg) herr (hown g hg) (effect_congr_decodeHalf hi hbuild hown g hg),
      answer_lastResp_congr herr⟩

end Sys2Proof.Machine
end

/-! # Proofs of the family 10_state: which registers a command writes, and the values after reset -/

section

namespace Sys2Proof.Machine

/-! ### The mapping registers without a mapping -/

/-- A mapping register that does not exist reads as the free value (R34). -/
theorem readMapping_of_not_mappable {cal : CalRecord} (h : cal.mappable = false) (get : Mapping → Word32) (fresh : Word32) :
    readMapping cal get fresh = fresh := by
  have hnone : cal.mapping = Option.none := by simpa using h
  simp [readMapping, hnone]

/-- A read of one of the three mapping registers is a read of that field of the mapping (R62). -/
theorem hostRead_of_isMapping {r : ReadReq} (hr : r.isMapping) (fresh : Word32) (s : State) :
    ∃ get : Mapping → Word32, hostRead r fresh s = .word (readMapping s.cal get fresh) := by
  cases r with
  | reg a =>
    rcases hr with rfl | rfl | rfl
    · exact ⟨Mapping.slopeNum, rfl⟩
    · exact ⟨Mapping.offNum, rfl⟩
    · exact ⟨Mapping.den, rfl⟩
  | buf a => exact hr.elim
  | mask a => exact hr.elim

/-- Settles O56: a read of a mapping register goes through `readMapping`, which has only the free value to answer. -/
theorem unmappedMappingReadsAnything : Obligations.UnmappedMappingReadsAnything := by
  intro s r hr hunmapped v
  obtain ⟨get, hread⟩ := hostRead_of_isMapping hr v s
  rw [hread, readMapping_of_not_mappable hunmapped]

/-! ### The values after reset -/

/-- Settles O13: the registers of one value by the definition of `State.resetOf`, the register files index by index, the buffer
bit by bit, and the mapping registers by `unmappedMappingReadsAnything`. -/
theorem resetValues : Obligations.ResetValues := by
  refine ⟨rfl, fun b => ?_⟩
  have hbuf : ∀ k, bufBit (State.resetOf b).buf k = false := bufBit_replicate _
  have hcrcOut : crcOut (State.resetOf b) = 0#16 := BitVec.xor_self
  have hmask : ∀ i : Fin 32, (State.resetOf b).mask[i] = 0#8 := fun i => Vector.getElem_replicate i.isLt
  have hcalw : ∀ i : Fin 4, (State.resetOf b).calw[i] = 0#16 := fun i => Vector.getElem_replicate i.isLt
  have hstatus : ∀ n : Fin 2, (State.resetOf b).backStatus[n] = .none := fun n => Vector.getElem_replicate n.isLt
  have hvalue : ∀ n : Fin 2, (State.resetOf b).backValue[n] = 0#16 := fun n => Vector.getElem_replicate n.isLt
  have hmapping : ∀ (v : Word32) (r : ReadReq), r.isMapping → hostRead r v (State.resetOf b) = .word v :=
    fun v r hr => unmappedMappingReadsAnything _ r hr rfl v
  exact ⟨rfl, List.length_replicate, hbuf, rfl, hmask, rfl, hcrcOut, hcalw, rfl, rfl, rfl, rfl, rfl, rfl, rfl, rfl, rfl, rfl,
    rfl, rfl, hmapping, rfl, rfl, hstatus, rfl, rfl, hvalue, rfl, rfl⟩

/-! ### The registers a command writes -/

/-- A property of every row of R20's table, row by row. -/
theorem forall_regGroup {p : RegGroup → Prop} :
    (∀ g, p g) ↔ p .packer ∧ p .mask ∧ p .crc ∧ p .words ∧ p .record ∧ p .reading ∧ p .back ∧ p .lastResp ∧ p .errSticky := by
  refine ⟨fun h => ⟨h _, h _, h _, h _, h _, h _, h _, h _, h _⟩, ?_⟩
  rintro ⟨hpacker, hmask, hcrc, hwords, hrecord, hreading, hback, hresp, hsticky⟩ g
  cases g <;> assumption

/-- Every command writes `LAST_RESP` (R40, R263). -/
theorem lastResp_mem_writes (i : Instr) : RegGroup.lastResp ∈ writes i := by cases i <;> simp [writes]

/-- A command that can fail writes `ERR_STICKY` (R262, R263). -/
theorem errSticky_mem_writes {i : Instr} {e : Err} (he : e ∈ canRaise i) : RegGroup.errSticky ∈ writes i := by
  cases i
  case bbAppend | bbEbv | selBuild => simp [writes]
  all_goals simp [canRaise] at he

section Frame

variable {s : State} {g : RegGroup}

/-- The end of a command writes `LAST_RESP` alone (R263). -/
theorem sameGroup_respondOk_of_ne (hresp : g ≠ .lastResp) : SameGroup s (respondOk s) g := by
  cases g
  case lastResp => exact absurd rfl hresp
  all_goals simp [SameGroup]

/-- An error writes `LAST_RESP` and `ERR_STICKY` alone (R263). -/
theorem sameGroup_raise_of_ne (hresp : g ≠ .lastResp) (hsticky : g ≠ .errSticky) (e : Err) : SameGroup s (raise e s) g := by
  cases g
  case lastResp => exact absurd rfl hresp
  case errSticky => exact absurd rfl hsticky
  all_goals simp [SameGroup]

end Frame

/-- A command's effect changes the registers of its row and no other (R20). -/
theorem effect_keeps_unwritten (i : Instr) (s : State) : ∀ g, g ∉ writes i → SameGroup s (effect i s) g := by
  rw [forall_regGroup]
  cases i
  case bbEbv | selBuild => simp [effect, writes, SameGroup, putAll_eq]
  all_goals simp [effect, writes, SameGroup]

@[simp] theorem effect_port (i : Instr) (s : State) : (effect i s).port = s.port := by
  cases i
  case bbEbv | selBuild => simp [effect]
  all_goals rfl

/-- Settles O11: by `exec_cases` a command ends with `OK` after an effect within its row, or is one of R262's and reports an
error on the state before. -/
theorem registersAreWrittenOnlyByTheirCommands : Obligations.RegistersAreWrittenOnlyByTheirCommands := by
  intro i s t ht
  have hresp {g : RegGroup} (hg : g ∉ writes i) : g ≠ .lastResp := fun h => hg (h ▸ lastResp_mem_writes i)
  rcases exec_cases i s with hs | ⟨e, he, hs⟩
  · obtain rfl := Host.Outcome.next.inj (hs.symm.trans ht)
    exact ⟨effect_port i s, effect_build i s, fun g hg =>
      (effect_keeps_unwritten i s g hg).trans (sameGroup_respondOk_of_ne (hresp hg))⟩
  · obtain rfl := Host.Outcome.next.inj (hs.symm.trans ht)
    have hsticky {g : RegGroup} (hg : g ∉ writes i) : g ≠ .errSticky := fun h => hg (h ▸ errSticky_mem_writes he)
    exact ⟨rfl, rfl, fun g hg => sameGroup_raise_of_ne (hresp hg) (hsticky hg) e⟩

end Sys2Proof.Machine
end

/-! # Proofs of the family 20_memory: bytes and words, the host's read port

Each of the three read spaces has its rule for what it answers (`hostRead_reg_word` and its kin, `hostRead_buf`, `hostRead_mask`),
and the statements about reads are read off these rules. -/

section

namespace Sys2Proof.Machine

open Sys2Proof.Config

/-! ### Bytes and words -/

/-- The high byte of a word made of two bytes (R67, R68). -/
theorem extractLsb_high_append (hi lo : Byte) : (hi ++ lo : Word16).extractLsb 15 8 = hi := BitVec.extractLsb'_append_eq_left

/-- The low byte of a word made of two bytes (R67, R68). -/
theorem extractLsb_low_append (hi lo : Byte) : (hi ++ lo : Word16).extractLsb 7 0 = lo := BitVec.extractLsb'_append_eq_right

/-- A word is its high byte before its low byte (R67). -/
theorem extractLsb_append_extractLsb (w : Word16) : w.extractLsb 15 8 ++ w.extractLsb 7 0 = w :=
  (BitVec.extractLsb'_append_extractLsb'_eq_extractLsb' rfl).trans BitVec.extractLsb'_eq_self

theorem wordsToBytes_append_cons (hi lo : Byte) (ws : List Word16) :
    wordsToBytes ((hi ++ lo) :: ws) = hi :: lo :: wordsToBytes ws := by
  rw [wordsToBytes, extractLsb_high_append, extractLsb_low_append]

/-- Words survive the way over bytes (R69). -/
theorem bytesToWords_wordsToBytes (ws : List Word16) : bytesToWords (wordsToBytes ws) = some ws := by
  induction ws with
  | nil => rfl
  | cons w ws ih => rw [wordsToBytes, bytesToWords, ih, Option.map_some, extractLsb_append_extractLsb]

/-- An even number of bytes survives the way over words (R69). -/
theorem map_wordsToBytes_bytesToWords (bs : List Byte) (heven : bs.length % 2 = 0) :
    (bytesToWords bs).map wordsToBytes = some bs := by
  induction bs using bytesToWords.induct with
  | case1 => rfl
  | case2 b => simp at heven
  | case3 hi lo bs ih =>
    have htail : (bytesToWords bs).map wordsToBytes = some bs := ih (by simp only [List.length_cons] at heven; omega)
    calc (bytesToWords (hi :: lo :: bs)).map wordsToBytes
        = ((bytesToWords bs).map wordsToBytes).map fun bs' => hi :: lo :: bs' := by
          simp [bytesToWords, Function.comp_def, wordsToBytes_append_cons]
      _ = some (hi :: lo :: bs) := by rw [htail, Option.map_some]

/-- Settles O36: one direction by induction on the words, the other by the recursion of `bytesToWords`. -/
theorem bytesAndWordsRoundTrip : Obligations.BytesAndWordsRoundTrip :=
  ⟨map_wordsToBytes_bytesToWords, bytesToWords_wordsToBytes⟩

/-! ### The byte views -/

/-- A `BUF` address the build has reads as that byte of the buffer (R63). -/
theorem hostRead_buf {s : State} {a : Nat} (ha : a < s.build.capBytes) (fresh : Word32) :
    hostRead (.buf a) fresh s = .byte (s.buf.getD a 0#8) := by
  rw [hostRead, if_pos ha]

/-- A `MASK` address reads as that byte of the mask file (R64). -/
theorem hostRead_mask (a : BitVec 5) (fresh : Word32) (s : State) :
    hostRead (.mask a) fresh s = .byte (s.mask[a.toNat]'a.isLt) := by
  simp [hostRead, maskByte, Vector.getD, a.isLt]

/-- Bit `j` of a byte of the buffer, counted from the most significant (R66). -/
theorem bufBit_of_byte (buf : Buf) (a : Nat) {j : Nat} (hj : j < 8) :
    bufBit buf (8 * a + j) = (buf.getD a 0#8).getLsbD (7 - j) := by
  have hdiv : (8 * a + j) / 8 = a := by omega
  have hmod : (8 * a + j) % 8 = j := by omega
  rw [bufBit, hdiv, hmod]

/-- A read of `BUF` answers the byte whose bits are the eight buffer bits from `8a` on, and no other (R63, R66). -/
theorem hostRead_buf_iff {s : State} {a : Nat} (ha : a < s.build.capBytes) (fresh : Word32) (b : Byte) :
    hostRead (.buf a) fresh s = .byte b ↔ ∀ j, j < 8 → b.getLsbD (7 - j) = bufBit s.buf (8 * a + j) := by
  rw [hostRead_buf ha, ReadData.byte.injEq]
  constructor
  · rintro rfl j hj
    rw [bufBit_of_byte _ _ hj]
  · intro hbits
    refine BitVec.eq_of_getLsbD_eq fun i hi => ?_
    have hbit := hbits (7 - i) (by omega)
    have hflip : 7 - (7 - i) = i := by omega
    rw [bufBit_of_byte _ _ (by omega), hflip] at hbit
    exact hbit.symm

/-- Settles O57: `hostRead_buf` says which byte a read answers, `hostRead_buf_iff` what its bits are. -/
theorem byteViews : Obligations.ByteViews := by
  intro s v
  refine ⟨fun a ha => ⟨s.buf.getD a 0#8, hostRead_buf ha v, ?_⟩, fun a => hostRead_mask a v s⟩
  exact (hostRead_buf_iff ha v _).mp (hostRead_buf ha v)

/-! ### A word appended at a byte boundary -/

/-- A `BB_APPEND` of a legal width, with a value in range and room for it, passes its checks (R121). -/
theorem firstError_bbAppend_eq_none {width : BitVec 6} {value : Word32} {s : State} (hmin : fieldMinWidth ≤ width.toNat)
    (hmax : width.toNat ≤ fieldMaxWidth) (hrange : value.toNat < 2 ^ width.toNat)
    (hfit : s.bitlen + width.toNat ≤ s.build.capBits) : firstError (.bbAppend width value) s = Option.none := by
  rw [firstError, if_neg (by omega), if_neg (by omega), if_neg (by omega)]

/-- One append writes the bits of its value from `BITLEN` on, most significant first (R123). -/
theorem bufBit_put {s : State} {f : BitField} (hfit : s.bitlen + f.width ≤ 8 * s.buf.length) {i : Nat} (hi : i < f.width) :
    bufBit (put s f).buf (s.bitlen + i) = f.value.testBit (f.width - 1 - i) := by
  have hlen := f.length_bits
  rw [put_buf, bufBit_writeBits _ _ _ _ (by omega), if_pos (by omega), Nat.add_sub_cancel_left, f.getD_bits hi]

/-- A bit vector appended whole lies in the buffer from `BITLEN` on, its most significant bit first (R123). -/
theorem bufBit_put_fieldOf {s : State} {w : Nat} (v : BitVec w) (hfit : s.bitlen + w ≤ 8 * s.buf.length) {i : Nat} (hi : i < w) :
    bufBit (put s (fieldOf v)).buf (s.bitlen + i) = v.getLsbD (w - 1 - i) := by
  rw [bufBit_put (f := fieldOf v) hfit hi, fieldOf, BitVec.testBit_toNat]

/-- The end of a command changes no byte of the buffer (R263). -/
@[simp] theorem hostRead_buf_respondOk (a : Nat) (fresh : Word32) (s : State) :
    hostRead (.buf a) fresh (respondOk s) = hostRead (.buf a) fresh s := rfl

/-- Once a 16-bit word is appended, the byte that begins `i` bits into it reads as bits `15 − i` to `8 − i` of the word (R70). -/
theorem hostRead_buf_put_word {s : State} (v : Word16) (hcap : 8 * s.buf.length = s.build.capBits)
    (hfit : s.bitlen + 16 ≤ s.build.capBits) {a i : Nat} (hi : i ≤ 8) (ha : 8 * a = s.bitlen + i) (fresh : Word32) :
    hostRead (.buf a) fresh (put s (fieldOf v)) = .byte (v.extractLsb' (8 - i) 8) := by
  have hsize : a < (put s (fieldOf v)).build.capBytes := by
    rw [put_build, Build.capBytes]
    omega
  have hroom : s.bitlen + 16 ≤ 8 * s.buf.length := hcap ▸ hfit
  refine (hostRead_buf_iff hsize fresh _).mpr fun j hj => ?_
  have hbit : 8 - i + (7 - j) = 16 - 1 - (i + j) := by omega
  rw [ha, Nat.add_assoc, bufBit_put_fieldOf v hroom (by omega), BitVec.getLsbD_extractLsb', hbit,
    decide_eq_true (by omega), Bool.true_and]

/-- Settles O58: the append passes its checks, and its two bytes are read by `hostRead_buf_put_word`. -/
theorem alignedWordReadsBigEndian : Obligations.AlignedWordReadsBigEndian := by
  intro s v f hlegal hsized haligned hfit
  have hvalue : (v.setWidth 32).toNat = v.toNat := BitVec.toNat_setWidth_of_le (by decide)
  have hchecks : firstError (.bbAppend 16 (v.setWidth 32)) s = Option.none :=
    firstError_bbAppend_eq_none (by decide) (by decide) (hvalue ▸ v.isLt) hfit
  have hcap : 8 * s.buf.length = s.build.capBits := by rw [hsized, capBits_eq hlegal]
  refine ⟨respondOk (put s (fieldOf v)), ?_, rfl, ?_, ?_⟩
  · rw [exec_eq_answer, answer_of_none hchecks, effect, hvalue]
    rfl
  · rw [hostRead_buf_respondOk]
    exact hostRead_buf_put_word v hcap hfit (i := 0) (by omega) (by omega) f
  · rw [hostRead_buf_respondOk]
    exact hostRead_buf_put_word v hcap hfit (i := 8) (by omega) (by omega) f

/-! ### The register map -/

section RegReads

variable {a : BitVec 8} {fresh : Word32} {s : State}

/-- A 32-bit register reads as its value (R62). -/
theorem hostRead_reg_word {x : Word32} (h : readReg a fresh s = x) :
    ∃ y, hostRead (.reg a) fresh s = .word y ∧ y.toNat = x.toNat :=
  ⟨_, rfl, congrArg BitVec.toNat h⟩

/-- A register of at most 32 bits reads zero-extended (R62). -/
theorem hostRead_reg_setWidth {w : Nat} {x : BitVec w} (hw : w ≤ 32) (h : readReg a fresh s = x.setWidth 32) :
    ∃ y, hostRead (.reg a) fresh s = .word y ∧ y.toNat = x.toNat :=
  ⟨_, rfl, by rw [h, BitVec.toNat_setWidth_of_le hw]⟩

/-- A register that holds a number reads as that number (R62). -/
theorem hostRead_reg_ofNat {n : Nat} (hn : n < 2 ^ 32) (h : readReg a fresh s = BitVec.ofNat 32 n) :
    ∃ y, hostRead (.reg a) fresh s = .word y ∧ y.toNat = n :=
  ⟨_, rfl, by rw [h, BitVec.toNat_ofNat, Nat.mod_eq_of_lt hn]⟩

/-- A mapping register reads as its value while a mapping exists (R34). -/
theorem readMapping_of_eq_some {cal : CalRecord} {m : Mapping} (h : cal.mapping = some m) (get : Mapping → Word32)
    (fresh : Word32) : readMapping cal get fresh = get m := by
  simp [readMapping, h]

/-- While a mapping exists no register answers the free value (R34). -/
theorem readReg_congr_of_mapping {m : Mapping} (hm : s.cal.mapping = some m) (fresh' : Word32) :
    readReg a fresh s = readReg a fresh' s := by
  simp only [readReg, readMapping_of_eq_some hm]

/-- An address that holds nothing reads 0 (R65). -/
theorem readReg_of_not_mem_mappedRegs (h : a.toNat ∉ mappedRegs) : readReg a fresh s = 0#32 := by
  unfold readReg
  split
  case h_30 => rfl
  all_goals next ha => exact absurd (by rw [ha]; decide) h

/-- Only a mapping register can answer the free value (R61, U1). -/
theorem readReg_congr_of_not_isMapping (h : ¬ (ReadReq.reg a).isMapping) (fresh' : Word32) :
    readReg a fresh s = readReg a fresh' s := by
  unfold readReg
  split
  case h_19 ha => exact absurd (.inl (BitVec.eq_of_toNat_eq ha)) h
  case h_20 ha => exact absurd (.inr (.inl (BitVec.eq_of_toNat_eq ha))) h
  case h_21 ha => exact absurd (.inr (.inr (BitVec.eq_of_toNat_eq ha))) h
  all_goals rfl

end RegReads

theorem respCode_lt (r : Resp) : respCode r < 2 ^ 32 := by
  rcases r with _ | e
  · decide
  · cases e <;> decide

theorem statusCode_lt (st : Status) : statusCode st < 2 ^ 32 := by cases st <;> decide

/-- The bits of `CAL_FLAGS` as a number (R62). -/
theorem calFlags_toNat (cal : CalRecord) :
    (calFlags cal).toNat = cal.present.toNat + 2 * cal.valid.toNat + 4 * cal.mappable.toNat + 8 * cal.variant.toNat := by
  have hbits : ∀ (present valid mappable : Bool) (variant : BitVec 2),
      (variant ++ (BitVec.ofBool mappable ++ (BitVec.ofBool valid ++ BitVec.ofBool present))).toNat =
        present.toNat + 2 * valid.toNat + 4 * mappable.toNat + 8 * variant.toNat := by decide
  exact hbits _ _ _ _

/-- Settles O55: row by row of R62's table, each by what its register holds: a number, a narrower bit vector or a 32-bit word. -/
theorem registerMap : Obligations.RegisterMap := by
  intro s v reg
  have hmapping (m : Mapping) (hm : s.cal.mapping = some m) : reg 0x19 m.slopeNum.toNat ∧ reg 0x1A m.offNum.toNat ∧
      reg 0x1B m.den.toNat :=
    ⟨hostRead_reg_word (readMapping_of_eq_some hm Mapping.slopeNum v), hostRead_reg_word (readMapping_of_eq_some hm Mapping.offNum v),
      hostRead_reg_word (readMapping_of_eq_some hm Mapping.den v)⟩
  have hbitlen (hlegal : s.build.Legal) (hlen : s.bitlen ≤ s.build.capBits) : reg 0x02 s.bitlen := by
    obtain ⟨-, -, hcap, -⟩ := hlegal
    exact hostRead_reg_ofNat (Nat.lt_of_le_of_lt hlen hcap) rfl
  have hflags : reg 0x10 (calFlags s.cal).toNat := hostRead_reg_setWidth (by decide) rfl
  rw [calFlags_toNat] at hflags
  have hstatus {a : BitVec 8} {st : Status} (h : readReg a v s = BitVec.ofNat 32 (statusCode st)) : reg a (statusCode st) :=
    hostRead_reg_ofNat (statusCode_lt st) h
  have hnarrow {a : BitVec 8} {w : Nat} {x : BitVec w} (hw : w ≤ 32) (h : readReg a v s = x.setWidth 32) : reg a x.toNat :=
    hostRead_reg_setWidth hw h
  have h16 : 16 ≤ 32 := by decide
  have h11 : 11 ≤ 32 := by decide
  have h8 : 8 ≤ 32 := by decide
  have h3 : 3 ≤ 32 := by decide
  exact ⟨hostRead_reg_ofNat (respCode_lt _) rfl, hnarrow h8 rfl, hbitlen, hnarrow h16 rfl, hnarrow h16 rfl,
    -- `CALW[0..3]`
    hnarrow h16 rfl, hnarrow h16 rfl, hnarrow h16 rfl, hnarrow h16 rfl,
    -- the calibration record
    hflags, hnarrow h16 rfl, hnarrow h11 rfl, hnarrow h16 rfl, hnarrow h11 rfl, hnarrow h3 rfl, hnarrow h3 rfl,
    hnarrow h16 rfl, hnarrow h16 rfl, hmapping,
    -- the reading and the backport channels
    hstatus rfl, hnarrow h16 rfl, hstatus rfl, hostRead_reg_word rfl, hstatus rfl, hnarrow h16 rfl, hstatus rfl, hnarrow h16 rfl,
    fun _ ha => hostRead_reg_word (readReg_of_not_mem_mappedRegs ha)⟩

/-! ### Reads have no side effect -/

/-- A pending read: the step answers it and takes it from the queue (R61). -/
theorem step_read {s : State} {r : ReadReq} {rest : List HostInput} (hpending : s.port.pending = .read r :: rest) :
    step s = .next (serveRead r (withPending rest s)) := by
  unfold step
  rw [takeInput_eq_some hpending]

/-- What a read answers does not depend on what the host has issued (R61). -/
theorem hostRead_withPending (r : ReadReq) (fresh : Word32) (p : List HostInput) (s : State) :
    hostRead r fresh (withPending p s) = hostRead r fresh s := by
  cases r <;> rfl

/-- The free value answers only a mapping register that does not exist and a `BUF` address the build does not have
(assumption logs 3 and 10). -/
theorem hostRead_congr {s : State} {r : ReadReq} (hmapping : ¬ (r.isMapping ∧ s.cal.mappable = false))
    (hbuf : ∀ a, r = .buf a → a < s.build.capBytes) (fresh fresh' : Word32) : hostRead r fresh s = hostRead r fresh' s := by
  cases r with
  | reg a =>
    refine congrArg ReadData.word ?_
    cases hm : s.cal.mapping with
    | some m => exact readReg_congr_of_mapping hm fresh'
    | none => exact readReg_congr_of_not_isMapping (fun ha => hmapping ⟨ha, by simp [hm]⟩) fresh'
  | buf a => rw [hostRead_buf (hbuf a rfl), hostRead_buf (hbuf a rfl)]
  | mask a => rfl

/-- Settles O54: the step on a read is `serveRead`, which changes the port alone, and `hostRead_congr`. -/
theorem readsHaveNoSideEffect : Obligations.ReadsHaveNoSideEffect := by
  refine ⟨fun s r rest hpending => ?_, fun s r v v' hmapping hbuf => hostRead_congr hmapping hbuf v v'⟩
  refine ⟨unspecifiedRead s.port.reads, _, step_read hpending, rfl, ?_, rfl⟩
  rw [serveRead_readData, hostRead_withPending]
  rfl

end Sys2Proof.Machine
end

/-! # Proofs of the family 30_encoding: command words

A command's own row of the opcode table (`Instr.row`) ties the encoder to the table; what a row's mask fixes is read off a matching
word by `extractLsb_of_matches`. The two round trips compare words as numbers, which linear arithmetic decides. -/

section

namespace Sys2Proof

/-! ### Rows of the opcode table -/

/-- The row of the opcode table a command belongs to (R93). -/
def Instr.row : Instr → OpcodeRow
  | .bbClear => opcodeTable[0]
  | .bbAppend _ _ => opcodeTable[1]
  | .bbEbv _ => opcodeTable[2]
  | .maskLd _ _ => opcodeTable[3]
  | .selBuild _ _ _ _ _ => opcodeTable[4]
  | .crcInit => opcodeTable[5]
  | .crcByte _ => opcodeTable[6]
  | .crcWord _ => opcodeTable[7]
  | .calLdw _ _ => opcodeTable[8]
  | .calLdb _ _ => opcodeTable[9]
  | .calDecode _ => opcodeTable[10]
  | .calClear => opcodeTable[11]
  | .classify _ _ _ => opcodeTable[12]
  | .clsBack _ _ _ => opcodeTable[13]
  | .nop => opcodeTable[14]
  | .reset => opcodeTable[15]
  | .clrerr => opcodeTable[16]

theorem Instr.row_mem (i : Instr) : i.row ∈ opcodeTable := by cases i <;> exact List.getElem_mem _

theorem Instr.row_mnemonic (i : Instr) : i.row.mnemonic = i.mnemonic := by cases i <;> rfl

/-- Bits where the mask is 0 are free (R93). -/
theorem append_and_append_zero {m n : Nat} {a mask b : BitVec m} {x : BitVec n} (h : a &&& mask = b) :
    (a ++ x) &&& (mask ++ 0#n) = b ++ 0#n := by
  rw [BitVec.and_append, h, BitVec.and_zero]

/-- The encoding of a command matches its row: the opcode and the reserved zeros lie where the mask is 1, the operands where it
is 0 (R81 to R93). -/
theorem encode_matches_row (i : Instr) : i.row.matches (encode i) := by
  cases i with
  | nop | reset | clrerr | bbClear | crcInit | calClear => rfl
  | bbAppend width value =>
    have hhigh : 0x11#8 ++ width ++ 0#18 &&& 0xFF#8 ++ 0#6 ++ BitVec.allOnes 18 = 0x11#8 ++ 0#6 ++ 0#18 := by
      rw [BitVec.and_append, append_and_append_zero (b := 0x11#8) rfl, BitVec.zero_and]
    exact append_and_append_zero hhigh
  | bbEbv => exact append_and_append_zero (mask := BitVec.allOnes 32) rfl
  | crcByte => exact append_and_append_zero (mask := BitVec.allOnes 56) rfl
  | crcWord => exact append_and_append_zero (mask := BitVec.allOnes 48) rfl
  | calDecode => exact append_and_append_zero (mask := BitVec.allOnes 62) rfl
  | maskLd => exact append_and_append_zero (append_and_append_zero (mask := BitVec.allOnes 51) rfl)
  | calLdw => exact append_and_append_zero (append_and_append_zero (mask := BitVec.allOnes 46) rfl)
  | calLdb => exact append_and_append_zero (append_and_append_zero (mask := BitVec.allOnes 53) rfl)
  | classify =>
    exact append_and_append_zero (append_and_append_zero (append_and_append_zero (mask := BitVec.allOnes 16) rfl))
  | clsBack =>
    exact append_and_append_zero (append_and_append_zero (append_and_append_zero (mask := BitVec.allOnes 31) rfl))
  | selBuild =>
    exact append_and_append_zero (append_and_append_zero (append_and_append_zero (append_and_append_zero
      (append_and_append_zero (mask := BitVec.allOnes 8) rfl))))

section Row

variable {r r' : OpcodeRow} {w : CmdWord}

/-- A word that matches a row has the row's bits wherever the mask has only ones (R93). -/
theorem extractLsb_of_matches (hmatch : r.matches w) {hi lo : Nat} (hmask : r.mask.extractLsb hi lo = BitVec.allOnes _) :
    w.extractLsb hi lo = r.pattern.extractLsb hi lo := by
  rw [← hmatch, BitVec.extractLsb_and, hmask, BitVec.and_allOnes]

/-- Every row fixes the opcode (R93). -/
theorem opcodeOf_of_matches (hr : r ∈ opcodeTable) (hmatch : r.matches w) : opcodeOf w = opcodeOf r.pattern := by
  have hmask : ∀ r ∈ opcodeTable, opcodeOf r.mask = BitVec.allOnes 8 := by decide
  exact extractLsb_of_matches hmatch (hmask r hr)

/-- A word matches one row at most, since no two rows share an opcode (R93). -/
theorem row_unique (hr : r ∈ opcodeTable) (hr' : r' ∈ opcodeTable) (hmatch : r.matches w) (hmatch' : r'.matches w) : r = r' := by
  have hopcodes : ∀ r ∈ opcodeTable, ∀ r' ∈ opcodeTable, opcodeOf r.pattern = opcodeOf r'.pattern → r = r' := by decide
  exact hopcodes r hr r' hr' ((opcodeOf_of_matches hr hmatch).symm.trans (opcodeOf_of_matches hr' hmatch'))

/-- A word that matches a row decodes to a command of that row: the row fixes the opcode and makes the reserved bits 0
(R93, R95). Format `S` of `SEL_BUILD` has no reserved bits. -/
theorem decode_of_matches (hr : r ∈ opcodeTable) (hmatch : r.matches w) :
    ∃ i, decode w = .instr i ∧ i.mnemonic = r.mnemonic := by
  have hop := opcodeOf_of_matches hr hmatch
  unfold decode
  rw [hop]
  simp only [opcodeTable, List.mem_cons, List.not_mem_nil, or_false] at hr
  obtain rfl | rfl | rfl | rfl | rfl | rfl | rfl | rfl | rfl | rfl | rfl | rfl | rfl | rfl | rfl | rfl | rfl := hr
  case inr.inr.inr.inr.inl => exact ⟨_, rfl, rfl⟩
  all_goals exact ⟨_, ifReservedZero_eq_instr.mpr ⟨extractLsb_of_matches hmatch (by decide), rfl⟩, rfl⟩

end Row

/-! ### The round trips -/

/-- Settles O1: the opcode selects the command's own format, and what is then extracted is compared with the operands as numbers. -/
theorem everyCommandDecodesFromItsEncoding : Obligations.EveryCommandDecodesFromItsEncoding := by
  intro i
  have hop := opcodeOf_of_matches i.row_mem (encode_matches_row i)
  unfold decode
  rw [hop]
  cases i
  all_goals simp only [Instr.row, opcodeTable, List.getElem_cons_succ, List.getElem_cons_zero]
  case selBuild =>
    refine congrArg Decoded.instr ?_
    simp only [Instr.selBuild.injEq, ← BitVec.toNat_inj, toNat_extractLsb, encode, toNat_append, BitVec.toNat_ofNat]
    omega
  all_goals
    refine ifReservedZero_eq_instr.mpr ?_
    simp only [Instr.bbAppend.injEq, Instr.bbEbv.injEq, Instr.maskLd.injEq, Instr.crcByte.injEq, Instr.crcWord.injEq,
      Instr.calLdw.injEq, Instr.calLdb.injEq, Instr.calDecode.injEq, Instr.classify.injEq, Instr.clsBack.injEq,
      ← BitVec.toNat_inj, toNat_extractLsb, encode, toNat_append, BitVec.toNat_ofNat, and_true]
    omega

/-- Settles O2: opcode, reserved zeros and fields are all of a word's 64 bits, so that as a number it is the encoding. -/
theorem decodedWordIsTheEncoding : Obligations.DecodedWordIsTheEncoding := by
  intro w i hdecode
  rw [← BitVec.toNat_inj]
  simp only [decode, toNat_opcodeOf] at hdecode
  split at hdecode
  case h_18 => cases hdecode
  case h_8 hop =>
    obtain rfl := Decoded.instr.inj hdecode
    simp only [encode, toNat_append, toNat_extractLsb, BitVec.toNat_ofNat]
    omega
  all_goals next hop =>
    obtain ⟨hreserved, rfl⟩ := ifReservedZero_eq_instr.mp hdecode
    rw [← BitVec.toNat_inj, toNat_extractLsb, BitVec.toNat_ofNat] at hreserved
    simp only [encode, toNat_append, toNat_extractLsb, BitVec.toNat_ofNat, Nat.zero_mod, Nat.zero_mul]
    omega

/-- Settles O3: a word that decodes is an encoding, which matches its command's row; the other parts are `decode_of_matches` and
`row_unique`. -/
theorem decoderAgreesWithOpcodeTable : Obligations.DecoderAgreesWithOpcodeTable := by
  refine fun w => ⟨fun i hdecode => ?_, fun r hr => decode_of_matches hr, fun r hr r' hr' => row_unique hr hr'⟩
  obtain rfl := decodedWordIsTheEncoding w i hdecode
  exact ⟨i.row, i.row_mem, encode_matches_row i, i.row_mnemonic⟩

end Sys2Proof
end

/-! # Proofs of the family 30_encoding: EBV

`ebvCount_le_iff` says which number of groups `ebvCount` is, and everything about lengths follows from it; the decoder is followed
group by group (`ebvDecodeFrom_of_flagged`, `ebvDecodeFrom_last`), its accumulator through the digits (`foldl_ebvStep`). -/

section

namespace Sys2Proof.Machine

open Sys2Proof.Config

/-! ### The number of groups -/

theorem le_ebvCountFrom (v fuel n : Nat) : n ≤ ebvCountFrom v fuel n := by
  induction fuel generalizing n with
  | zero => exact Nat.le_refl n
  | succ fuel ih =>
    unfold ebvCountFrom
    split
    · exact Nat.le_of_succ_le (ih (n + 1))
    · exact Nat.le_refl n

/-- The groups the loop of R124 ends with hold the value, where its turns may reach a number of groups that does. -/
theorem lt_pow_ebvCountFrom {v fuel n : Nat} (hv : v < 128 ^ (n + fuel)) : v < 128 ^ ebvCountFrom v fuel n := by
  induction fuel generalizing n with
  | zero => exact hv
  | succ fuel ih =>
    unfold ebvCountFrom
    split
    · exact ih (by rwa [Nat.add_right_comm, Nat.add_assoc])
    · next hdiv =>
      exact (Nat.div_eq_zero_iff_lt (by positivity)).mp (not_not.mp hdiv)

theorem one_le_ebvCount (v : Nat) : 1 ≤ ebvCount v := le_ebvCountFrom v _ 1

theorem lt_pow_ebvCount (v : Nat) : v < 128 ^ ebvCount v := by
  refine lt_pow_ebvCountFrom ?_
  calc v < 2 ^ (v.log2 + 1) := Nat.lt_log2_self
    _ ≤ 128 ^ (v.log2 + 1) := Nat.pow_le_pow_left (by decide) _
    _ = 128 ^ (1 + v.log2) := by rw [Nat.add_comm]

/-- The number of groups is the least that holds the value, and at least one (R102). -/
theorem ebvCount_le_iff {v k : Nat} (hk : 1 ≤ k) : ebvCount v ≤ k ↔ v < 128 ^ k :=
  ⟨fun h => Nat.lt_of_lt_of_le (lt_pow_ebvCount v) (Nat.pow_le_pow_right (by decide) h), fun h => ebvCountFrom_le h _ hk⟩

/-- The number of groups by the bit length of the value (R102). -/
theorem ebvCount_eq_size (v : Nat) : ebvCount v = max 1 ((Nat.size v + 6) / 7) := by
  refine eq_of_forall_ge_iff fun k => ?_
  have hone := one_le_ebvCount v
  by_cases hk : 1 ≤ k
  · rw [ebvCount_le_iff hk, show 128 = 2 ^ 7 from rfl, ← Nat.pow_mul, ← Nat.size_le]
    omega
  · omega

/-- The boundaries of 32-bit values (R102). -/
theorem ebvCount_of_lt {v : Nat} (hv : v < 2 ^ 32) :
    ebvCount v = if v ≤ 127 then 1 else if v ≤ 16383 then 2 else if v ≤ 2097151 then 3 else if v ≤ 268435455 then 4 else 5 := by
  have hone := one_le_ebvCount v
  have h1 : ebvCount v ≤ 1 ↔ v < 128 ^ 1 := ebvCount_le_iff (by decide)
  have h2 : ebvCount v ≤ 2 ↔ v < 128 ^ 2 := ebvCount_le_iff (by decide)
  have h3 : ebvCount v ≤ 3 ↔ v < 128 ^ 3 := ebvCount_le_iff (by decide)
  have h4 : ebvCount v ≤ 4 ↔ v < 128 ^ 4 := ebvCount_le_iff (by decide)
  have h5 : ebvCount v ≤ 5 ↔ v < 128 ^ 5 := ebvCount_le_iff (by decide)
  split_ifs <;> omega

/-! ### The groups -/

theorem getElem?_ebvGroups {v j : Nat} (hj : j < ebvCount v) : (ebvGroups v)[j]? = some (ebvGroup v (ebvCount v) j) := by
  simp [ebvGroups, hj]

theorem ebvGroup_toNat (v n j : Nat) :
    (ebvGroup v n j).toNat = (if j < n - 1 then 128 else 0) + v / 128 ^ (n - 1 - j) % 128 := by
  rw [ebvGroup, BitVec.toNat_ofNat, Nat.mod_eq_of_lt]
  split <;> omega

/-- The payload of a group is its 7-bit digit (R101, R102). -/
theorem ebvGroup_payload (v n j : Nat) : (ebvGroup v n j).toNat % 128 = v / 128 ^ (n - 1 - j) % 128 := by
  rw [ebvGroup_toNat]
  split <;> omega

/-- The flag of a byte is whether it is at least 128 (R101). -/
theorem getLsbD_seven (g : Byte) : g.getLsbD 7 = decide (128 ≤ g.toNat) := BitVec.msb_eq_decide g

/-- Every group but the last has the continuation flag (R101). -/
theorem ebvGroup_flag (v n j : Nat) : (ebvGroup v n j).getLsbD 7 = decide (j < n - 1) := by
  rw [getLsbD_seven, ebvGroup_toNat, decide_eq_decide]
  split <;> omega

/-- The first payload is not 0 unless the value is: one group fewer would not hold the value (R102). -/
theorem first_payload_ne_zero {v : Nat} (hv : v ≠ 0) : (ebvGroup v (ebvCount v) 0).toNat % 128 ≠ 0 := by
  rw [ebvGroup_payload]
  have hone := one_le_ebvCount v
  have htop : v / 128 ^ (ebvCount v - 1) < 128 := by
    rw [Nat.div_lt_iff_lt_mul (by positivity), ← Nat.pow_succ', Nat.succ_eq_add_one, Nat.sub_add_cancel hone]
    exact lt_pow_ebvCount v
  have hleast : 128 ^ (ebvCount v - 1) ≤ v := by
    by_cases h1 : ebvCount v = 1
    · rw [h1]
      exact Nat.pos_of_ne_zero hv
    · exact Nat.le_of_not_lt fun hlt => by
        have := (ebvCount_le_iff (by omega)).mpr hlt
        omega
  have hpos : 0 < v / 128 ^ (ebvCount v - 1) := Nat.div_pos hleast (by positivity)
  rw [Nat.sub_zero, Nat.mod_eq_of_lt htop]
  omega

theorem ebvGroups_zero : ebvGroups 0 = [0x00#8] := by decide

/-- Settles O20: the number of groups by `ebvCount_eq_size` and `ebvCount_of_lt`, each group by its payload and its flag. -/
theorem ebvGroupsAreTheMinimalDigits : Obligations.EbvGroupsAreTheMinimalDigits := by
  intro v
  rw [length_ebvGroups]
  refine ⟨ebvCount_eq_size v, fun j hj => ⟨_, getElem?_ebvGroups hj, ebvGroup_flag .., ebvGroup_payload ..⟩, fun hv => ?_,
    ebvGroups_zero, ?_, ebvCount_of_lt⟩
  · exact ⟨_, getElem?_ebvGroups (one_le_ebvCount v), first_payload_ne_zero hv⟩
  · rw [ebvWidth, length_ebvGroups]

/-! ### Bits as numbers -/

theorem bitsOf_append (fs gs : List BitField) : bitsOf (fs ++ gs) = bitsOf fs ++ bitsOf gs := List.flatMap_append

theorem bitsOf_nil : bitsOf [] = [] := rfl

theorem bitsOf_singleton (f : BitField) : bitsOf [f] = f.bits := List.flatMap_singleton ..

/-- The last bit of a field is the last bit of its value (R100). -/
theorem BitField.bits_succ (w v : Nat) : BitField.bits ⟨w + 1, v⟩ = BitField.bits ⟨w, v / 2⟩ ++ [v.testBit 0] := by
  simp only [BitField.bits, List.range_succ, List.map_append, List.map_singleton, Nat.add_sub_cancel, Nat.sub_self]
  congr 1
  refine List.map_congr_left fun i hi => ?_
  have hi : i < w := List.mem_range.mp hi
  rw [← Nat.testBit_succ]
  congr 1
  omega

/-- The bits of a field spell its value (R100). -/
theorem natOfBits_bits (w v : Nat) : natOfBits (BitField.bits ⟨w, v⟩) = v % 2 ^ w := by
  induction w generalizing v with
  | zero => exact (Nat.mod_one v).symm
  | succ w ih =>
    calc natOfBits (BitField.bits ⟨w + 1, v⟩)
        = 2 * natOfBits (BitField.bits ⟨w, v / 2⟩) + (v.testBit 0).toNat := by
          rw [BitField.bits_succ, natOfBits, List.foldl_append]
          rfl
      _ = v % 2 + 2 * (v / 2 % 2 ^ w) := by rw [ih, Nat.toNat_testBit, Nat.pow_zero, Nat.div_one, Nat.add_comm]
      _ = v % 2 ^ (w + 1) := by rw [Nat.pow_succ', Nat.mod_mul]

/-- The first bit of a byte is its flag (R101). -/
theorem headD_bits_fieldOf (g : Byte) : (fieldOf g).bits.headD false = g.getLsbD 7 := rfl

/-- The other seven bits of a byte spell its payload (R101). -/
theorem natOfBits_drop_bits_fieldOf (g : Byte) : natOfBits ((fieldOf g).bits.drop 1) = g.toNat % 128 :=
  natOfBits_bits 7 g.toNat

/-! ### The decoder -/

/-- What a group does to the decoder's accumulator (R103). -/
def ebvStep (acc : Nat) (g : Byte) : Nat := acc * 128 + g.toNat % 128

/-- The decoder takes one byte: the flag decides whether it goes on (R103). -/
theorem ebvDecodeFrom_byte (fuel acc : Nat) (g : Byte) (rest : List Bool) :
    ebvDecodeFrom (fuel + 1) acc ((fieldOf g).bits ++ rest) =
      if g.getLsbD 7 then ebvDecodeFrom fuel (ebvStep acc g) rest else some (ebvStep acc g, rest) := by
  have hlen : (fieldOf g).bits.length = ebvGroupBits := BitField.length_bits _
  rw [ebvDecodeFrom, if_neg (by simp [hlen]), List.take_left' hlen, List.drop_left' hlen]
  simp only [headD_bits_fieldOf, natOfBits_drop_bits_fieldOf, ebvStep]

section Groups

variable {gs : List Byte} (hflagged : ∀ g ∈ gs, g.getLsbD 7 = true)

include hflagged

/-- Groups with the continuation flag are taken one after the other (R103). -/
theorem ebvDecodeFrom_of_flagged (fuel acc : Nat) (rest : List Bool) :
    ebvDecodeFrom (fuel + gs.length) acc (bitsOf (gs.map fieldOf) ++ rest) = ebvDecodeFrom fuel (gs.foldl ebvStep acc) rest := by
  induction gs generalizing acc with
  | nil => rfl
  | cons g gs ih =>
    rw [List.forall_mem_cons] at hflagged
    obtain ⟨hg, hgs⟩ := hflagged
    rw [List.map_cons, bitsOf_cons, List.append_assoc, List.length_cons, ← Nat.add_assoc, ebvDecodeFrom_byte, if_pos hg, ih hgs,
      List.foldl_cons]

/-- The decoder reads flagged groups and one group without the flag, and leaves the rest (R103). -/
theorem ebvDecode_of_flagged {last : Byte} (hlast : last.getLsbD 7 = false) (rest : List Bool) :
    ebvDecode (bitsOf ((gs ++ [last]).map fieldOf) ++ rest) = some ((gs ++ [last]).foldl ebvStep 0, rest) := by
  have hbits : bitsOf ((gs ++ [last]).map fieldOf) ++ rest = bitsOf (gs.map fieldOf) ++ ((fieldOf last).bits ++ rest) := by
    rw [List.map_append, bitsOf_append, List.append_assoc, List.map_singleton, bitsOf_singleton]
  have hgroups : (bitsOf (gs.map fieldOf)).length = 8 * gs.length := length_bitsOf_map_byte _ (fun _ => rfl) gs
  obtain ⟨fuel, hfuel⟩ : ∃ fuel, (bitsOf (gs.map fieldOf) ++ ((fieldOf last).bits ++ rest)).length + 1 = fuel + 1 + gs.length :=
    ⟨7 * gs.length + ((fieldOf last).bits ++ rest).length, by rw [List.length_append, hgroups]; omega⟩
  rw [hbits, ebvDecode, hfuel, ebvDecodeFrom_of_flagged hflagged, ebvDecodeFrom_byte, hlast, List.foldl_append]
  rfl

end Groups

/-- The first `k` of `n` groups spell the value without its last `n − k` digits (R102). -/
theorem foldl_ebvStep {v n k : Nat} (hv : v < 128 ^ n) (hk : k ≤ n) :
    ((List.range k).map (ebvGroup v n)).foldl ebvStep 0 = v / 128 ^ (n - k) := by
  induction k with
  | zero => exact (Nat.div_eq_of_lt hv).symm
  | succ k ih =>
    have hexp : n - k = n - 1 - k + 1 := by omega
    rw [List.range_succ, List.map_append, List.foldl_append, ih (by omega), List.map_singleton, List.foldl_cons, List.foldl_nil,
      ebvStep, ebvGroup_payload, hexp, Nat.pow_succ, ← Nat.div_div_eq_div_mul, Nat.div_add_mod', Nat.sub_sub, Nat.add_comm 1]

/-- Leading `0x80` groups leave the accumulator at 0 (R103). -/
theorem foldl_ebvStep_replicate (k : Nat) : (List.replicate k 0x80#8).foldl ebvStep 0 = 0 := by
  induction k with
  | zero => rfl
  | succ k ih => exact ih

/-- The decoder reads the value of an EBV encoding with any number of leading `0x80` groups (R103). -/
theorem ebvDecode_ebvFields (k v : Nat) (rest : List Bool) :
    ebvDecode (bitsOf (List.replicate k ⟨8, 0x80⟩ ++ ebvFields v) ++ rest) = some (v, rest) := by
  have hsplit : ebvGroups v =
      (List.range (ebvCount v - 1)).map (ebvGroup v (ebvCount v)) ++ [ebvGroup v (ebvCount v) (ebvCount v - 1)] := by
    rw [← List.map_singleton, ← List.map_append, ← List.range_succ, Nat.succ_eq_add_one, Nat.sub_add_cancel (one_le_ebvCount v)]
    rfl
  have hflagged : ∀ g ∈ List.replicate k 0x80#8 ++ (List.range (ebvCount v - 1)).map (ebvGroup v (ebvCount v)),
      g.getLsbD 7 = true := by
    intro g hg
    rcases List.mem_append.mp hg with hg | hg
    · rw [List.eq_of_mem_replicate hg]
      rfl
    · obtain ⟨j, hj, rfl⟩ := List.mem_map.mp hg
      rw [ebvGroup_flag, decide_eq_true (List.mem_range.mp hj)]
  have hlast : (ebvGroup v (ebvCount v) (ebvCount v - 1)).getLsbD 7 = false := by
    rw [ebvGroup_flag, decide_eq_false (Nat.lt_irrefl _)]
  have hvalue : (List.replicate k 0x80#8 ++ ebvGroups v).foldl ebvStep 0 = v := by
    rw [List.foldl_append, foldl_ebvStep_replicate, ebvGroups, foldl_ebvStep (lt_pow_ebvCount v) (Nat.le_refl _), Nat.sub_self,
      Nat.pow_zero, Nat.div_one]
  have hfields : List.replicate k ⟨8, 0x80⟩ ++ ebvFields v = (List.replicate k 0x80#8 ++ ebvGroups v).map fieldOf := by
    rw [List.map_append, List.map_replicate]
    rfl
  have hread := ebvDecode_of_flagged hflagged hlast rest
  rwa [List.append_assoc, ← hsplit, hvalue, ← hfields] at hread

/-- A minimal encoding does not begin with a `0x80` group (R103). -/
theorem first_group_ne (v : Nat) : (ebvGroups v)[0]? ≠ some 0x80#8 := by
  by_cases hv : v = 0
  · rw [hv, ebvGroups_zero]
    decide
  · rw [getElem?_ebvGroups (one_le_ebvCount v)]
    intro h
    have hgroup : ebvGroup v (ebvCount v) 0 = 0x80#8 := Option.some.inj h
    exact first_payload_ne_zero hv (by rw [hgroup]; rfl)

/-- Settles O21: `ebvDecode_ebvFields`, with no leading group and with any number of them. -/
theorem ebvDecodeReadsBackTheValue : Obligations.EbvDecodeReadsBackTheValue := fun v rest =>
  ⟨length_bitsOf_ebvFields v, ebvDecode_ebvFields 0 v rest, fun k => ebvDecode_ebvFields k v rest, first_group_ne v⟩

end Sys2Proof.Machine
end

/-! # Proofs of the family 30_encoding: the Select frame and the Variant A layout

The buffer's content after appends is `content_putAll`; the frame's bits are compared part by part, the mask byte by byte. -/

section

namespace Sys2Proof.Machine

open Sys2Proof.Config

/-! ### Content and zero tail -/

/-- The end of a command leaves the content as it is (R263). -/
@[simp] theorem content_respondOk (s : State) : content (respondOk s) = content s := rfl

@[simp] theorem zeroTail_respondOk (s : State) : ZeroTail (respondOk s) ↔ ZeroTail s := Iff.rfl

/-- A cleared buffer is empty (R120). -/
@[simp] theorem content_clearBuffer (s : State) : content (clearBuffer s) = [] := rfl

theorem zeroTail_clearBuffer (s : State) : ZeroTail (clearBuffer s) := fun k _ => bufBit_replicate _ k

section Content

variable {s : State} {fs : List BitField} (hfit : s.bitlen + (bitsOf fs).length ≤ 8 * s.buf.length)

include hfit

/-- Fields that fit the buffer lie behind its content (R123, R126). -/
theorem content_putAll : content (putAll s fs) = content s ++ bitsOf fs := by
  have hbit (k : Nat) := bufBit_writeBits s.buf s.bitlen (bitsOf fs) k hfit
  rw [putAll_eq]
  simp only [content, List.range_add, List.map_append, List.map_map]
  congr 1
  · refine List.map_congr_left fun k hk => ?_
    have hk : k < s.bitlen := List.mem_range.mp hk
    rw [hbit, if_neg (by omega)]
  · refine List.ext_getElem (by simp) fun i hi _ => ?_
    have hi : i < (bitsOf fs).length := by simpa using hi
    simp [hbit, hi]

/-- Fields that fit the buffer leave a zero tail behind them (R23, R123). -/
theorem zeroTail_putAll (hzero : ZeroTail s) : ZeroTail (putAll s fs) := by
  rw [putAll_eq]
  intro k (hk : s.bitlen + (bitsOf fs).length ≤ k)
  show bufBit (writeBits s.buf s.bitlen (bitsOf fs)) k = false
  rw [bufBit_writeBits _ _ _ _ hfit, if_neg (by omega)]
  exact hzero k (by omega)

end Content

/-! ### The bits of the mask -/

/-- The `r` most significant bits of mask byte `q` follow the bits of the bytes before it (R141, R142). -/
theorem maskBits_add (m : MaskFile) (q : Nat) {r : Nat} (hr : r ≤ 8) :
    maskBits m (8 * q + r) = maskBits m (8 * q) ++ BitField.bits ⟨r, (maskByte m q).toNat / 2 ^ (8 - r)⟩ := by
  rw [maskBits, List.range_add, List.map_append, List.map_map]
  congr 1
  refine List.map_congr_left fun i hi => ?_
  have hi : i < r := List.mem_range.mp hi
  have hdiv : (8 * q + i) / 8 = q := by omega
  have hmod : (8 * q + i) % 8 = i := by omega
  have hbit : r - 1 - i + (8 - r) = 7 - i := by omega
  rw [Function.comp_apply, maskBit, hdiv, hmod, Nat.testBit_div_two_pow, hbit, BitVec.testBit_toNat]

/-- Whole mask bytes (R141, R142). -/
theorem bitsOf_maskBytes (m : MaskFile) (q : Nat) :
    bitsOf ((List.range q).map fun i => ⟨8, (maskByte m i).toNat⟩) = maskBits m (8 * q) := by
  induction q with
  | zero => rfl
  | succ q ih =>
    rw [List.range_succ, List.map_append, bitsOf_append, ih, List.map_singleton, bitsOf_singleton, Nat.mul_succ,
      maskBits_add m q (Nat.le_refl 8), Nat.sub_self, Nat.pow_zero, Nat.div_one]

/-- The mask `SEL_BUILD` appends is `MaskBits(masklen)` (R141, R142). -/
theorem bitsOf_maskFields (m : MaskFile) (masklen : Nat) : bitsOf (maskFields m masklen) = maskBits m masklen := by
  have hsplit : maskBits m masklen = maskBits m (8 * (masklen / 8) + masklen % 8) := by rw [Nat.div_add_mod]
  rw [maskFields, bitsOf_append, bitsOf_maskBytes]
  split
  · rw [hsplit, maskBits_add m _ (Nat.le_of_lt (Nat.mod_lt _ (by decide))), bitsOf_singleton]
  · next hr =>
    rw [hsplit, not_not.mp hr]
    exact List.append_nil _

/-! ### The frame -/

/-- The bits of a Select frame, part by part (R104, R141). -/
theorem bitsOf_selectFields (cmdCode : BitVec 4) (m : MaskFile) (target action bank : BitVec 4) (masklen : BitVec 12)
    (pointer : Word32) :
    bitsOf (selectFields cmdCode m target action bank masklen pointer) =
      BitField.bits ⟨4, cmdCode.toNat⟩ ++ BitField.bits ⟨3, target.toNat⟩ ++ BitField.bits ⟨3, action.toNat⟩ ++
      BitField.bits ⟨2, bank.toNat⟩ ++ (ebvGroups pointer.toNat).flatMap (fun g => BitField.bits ⟨8, g.toNat⟩) ++
      BitField.bits ⟨8, masklen.toNat⟩ ++ maskBits m masklen.toNat ++ [false] := by
  have hpointer : bitsOf (ebvFields pointer.toNat) = (ebvGroups pointer.toNat).flatMap fun g => BitField.bits ⟨8, g.toNat⟩ :=
    List.flatMap_map ..
  have htruncate : (fieldOf selTruncate).bits = [false] := rfl
  simp only [selectFields, selectHead, bitsOf_append, bitsOf_cons, bitsOf_nil, bitsOf_maskFields, hpointer, htruncate,
    List.append_assoc, List.append_nil]

/-- Legal operands pass the checks of `SEL_BUILD` (R141). -/
theorem firstError_selBuild_eq_none {target action bank : BitVec 4} {masklen : BitVec 12}
    (hlegal : selectLegal target action bank masklen) (pointer : Word32) (s : State) :
    firstError (.selBuild target action bank masklen pointer) s = Option.none := by
  obtain ⟨htarget, haction, hbank, hlen⟩ := hlegal
  rw [firstError, if_neg (by omega), if_neg (by omega), if_neg (by omega), if_neg (by omega)]

/-- A command that replaces the buffer's content and ends with `OK` changes `BUF`, `BITLEN` and `LAST_RESP` alone (R141). -/
theorem respondOk_putAll_clearBuffer (s : State) (fs : List BitField) :
    respondOk (putAll (clearBuffer s) fs) =
      { s with
        buf := (respondOk (putAll (clearBuffer s) fs)).buf
        bitlen := (respondOk (putAll (clearBuffer s) fs)).bitlen
        lastResp := .ok } := by
  rw [putAll_eq]
  rfl

/-- Settles O25: the command appends the frame's fields to a cleared buffer, which holds the longest frame in every legal build. -/
theorem selBuildBuildsTheFrame : Obligations.SelBuildBuildsTheFrame := by
  intro target action bank masklen pointer s hbuild hlegal
  have hfit : (clearBuffer s).bitlen +
      (bitsOf (selectFields s.build.selectCmdCode s.mask target action bank masklen pointer)).length ≤
        8 * (clearBuffer s).buf.length := by
    have hcap := capBits_eq hbuild
    have hpointer := ebvWidth_le pointer
    obtain ⟨hmin, -⟩ := hbuild
    obtain ⟨-, -, -, hlen⟩ := hlegal
    rw [length_bitsOf_selectFields, clearBuffer_bitlen, clearBuffer_buf, List.length_replicate]
    omega
  have hexec : exec (.selBuild target action bank masklen pointer) s = .next (respondOk (putAll (clearBuffer s)
      (selectFields s.build.selectCmdCode s.mask target action bank masklen pointer))) := by
    rw [exec_eq_answer, answer_of_none (firstError_selBuild_eq_none hlegal pointer s), effect]
  refine ⟨_, hexec, ?_, ?_, ?_⟩
  · rw [content_respondOk, content_putAll hfit, content_clearBuffer, List.nil_append, bitsOf_selectFields]
  · rw [zeroTail_respondOk]
    exact zeroTail_putAll hfit (zeroTail_clearBuffer s)
  · exact respondOk_putAll_clearBuffer s _

/-! ### The Variant A layout -/

/-- The record of Variant A, before its mapping (R183, R185). -/
theorem decodeRecord_variantA (order : WordOrder) (w : WordFile) : decodeRecord order 0#2 w = withMapping (decodeA w) := rfl

/-- Settles O39: the fields are parts of single words or of two neighbours, compared with the string's parts as numbers. -/
theorem variantAFieldsOfTheBitString : Obligations.VariantAFieldsOfTheBitString := by
  intro s
  refine ⟨_, rfl, ?_, ?_, ?_, ?_, ?_, rfl, rfl, rfl⟩
  all_goals
    simp only [respondOk_cal, decodeRecord_variantA, withMapping, decodeA, toNat_append, toNat_extractLsb, BitVec.toNat_setWidth]
    omega

end Sys2Proof.Machine
end

/-! # Proofs of the family 41_bitfield_packer

An append that passes its checks is `putAll` of its fields (`exec_append`), and appends are compared by the bits they write
(`putAll_congr`). -/

section

namespace Sys2Proof

/-! ### Words of one command -/

/-- A word spells a command exactly when it is the command's encoding (R93 to R95). -/
theorem decode_eq_instr_iff {w : CmdWord} {i : Instr} : decode w = .instr i ↔ w = encode i :=
  ⟨fun h => (decodedWordIsTheEncoding w i h).symm, fun h => h ▸ everyCommandDecodesFromItsEncoding i⟩

/-- A format whose command a word does not spell makes the word illegal (R95). -/
theorem ifReservedZero_illegal {n : Nat} {w : CmdWord} {r : BitVec n} {i : Instr} (h : ifReservedZero w r i ≠ .instr i) :
    ∃ why, ifReservedZero w r i = .illegal why := by
  have hr : r ≠ 0#n := fun hr => h (ifReservedZero_eq_instr.mpr ⟨hr, rfl⟩)
  exact ⟨_, if_neg hr⟩

/-- Opcode 0x10 selects the format of `BB_CLEAR` (R93). -/
theorem decode_of_opcode_bbClear {w : CmdWord} (hop : opcodeOf w = 0x10#8) :
    decode w = ifReservedZero w (w.extractLsb 55 0) .bbClear := by
  rw [decode, hop]
  rfl

/-- Settles O4: each printed word is the encoding of the command printed beside it. -/
theorem printedWordsDecode : Obligations.PrintedWordsDecode := by
  refine ⟨?_, ?_, ?_, ?_, ?_, ?_, ?_⟩
  all_goals exact decode_eq_instr_iff.mpr rfl

end Sys2Proof

namespace Sys2Proof.Machine

/-- Settles O17: the word is the command's encoding, any other word of the opcode has a reserved bit set, and the cleared buffer
is `clearBuffer`. -/
theorem bbClearEmptiesTheBuffer : Obligations.BbClearEmptiesTheBuffer := by
  have hword (w : CmdWord) : decode w = .instr .bbClear ↔ w = 0x1000000000000000 := decode_eq_instr_iff
  refine ⟨hword, fun w hop hne => ?_, fun s => ⟨respondOk (clearBuffer s), rfl, bufBit_replicate _, rfl, rfl⟩⟩
  have hdecode := decode_of_opcode_bbClear hop
  rw [hdecode]
  exact ifReservedZero_illegal fun h => hne ((hword w).mp (hdecode.trans h))

/-! ### Appends, bit by bit -/

section Bits

variable {s : State} {fs : List BitField} (hfit : s.bitlen + (bitsOf fs).length ≤ 8 * s.buf.length)

include hfit

/-- Fields that fit the buffer write their bits from `BITLEN` on (R123). -/
theorem bufBit_putAll_inside {i : Nat} (hi : i < (bitsOf fs).length) :
    bufBit (putAll s fs).buf (s.bitlen + i) = (bitsOf fs).getD i false := by
  rw [putAll_eq, bufBit_writeBits _ _ _ _ hfit, if_pos (by omega), Nat.add_sub_cancel_left]

/-- Fields that fit the buffer write no other bit (R123). -/
theorem bufBit_putAll_outside {k : Nat} (hk : k < s.bitlen ∨ s.bitlen + (bitsOf fs).length ≤ k) :
    bufBit (putAll s fs).buf k = bufBit s.buf k := by
  rw [putAll_eq, bufBit_writeBits _ _ _ _ hfit, if_neg (by omega)]

end Bits

theorem putAll_bitlen (s : State) (fs : List BitField) : (putAll s fs).bitlen = s.bitlen + (bitsOf fs).length := by
  rw [putAll_eq]

theorem putAll_append (s : State) (fs gs : List BitField) : putAll s (fs ++ gs) = putAll (putAll s fs) gs := List.foldl_append

/-- The response has no part in an append (R123). -/
theorem putAll_respondOk (s : State) (fs : List BitField) : putAll (respondOk s) fs = respondOk (putAll s fs) := by
  rw [putAll_eq, putAll_eq]
  rfl

/-- What appends do depends on the bits alone, not on how they are cut into fields (R126). -/
theorem putAll_congr (s : State) {fs gs : List BitField} (h : bitsOf fs = bitsOf gs) : putAll s fs = putAll s gs := by
  rw [putAll_eq, putAll_eq, h]

/-! ### An append that passes its checks -/

section Append

variable {i : Instr} {s : State} (happend : isAppend i = true)

include happend

theorem effect_append : effect i s = putAll s (appendedFields i) := by
  cases i
  case bbAppend | bbEbv => rfl
  all_goals cases happend

/-- The overflow check: the appended fields fit the capacity (R121, R122). -/
theorem fits_of_append (hchecks : firstError i s = Option.none) :
    s.bitlen + (bitsOf (appendedFields i)).length ≤ s.build.capBits := by
  cases i
  case bbAppend =>
    rw [appendedFields, bitsOf_singleton, BitField.length_bits]
    exact fits_of_bbAppend hchecks
  case bbEbv =>
    rw [appendedFields, length_bitsOf_ebvFields]
    exact fits_of_bbEbv hchecks
  all_goals cases happend

theorem answer_append (hchecks : firstError i s = Option.none) : answer i s = respondOk (putAll s (appendedFields i)) := by
  rw [answer_of_none hchecks, effect_append happend]

/-- An append that passes its checks writes the bits of its fields at `BITLEN`, advances `BITLEN` by their number, and changes no
other bit and no other register (R121 to R123). -/
theorem exec_append (hlegal : s.build.Legal) (hsized : BufSized s) (hchecks : firstError i s = Option.none) :
    ∃ t, exec i s = .next t ∧
      t.bitlen = s.bitlen + (bitsOf (appendedFields i)).length ∧
      (∀ k, k < (bitsOf (appendedFields i)).length → bufBit t.buf (s.bitlen + k) = (bitsOf (appendedFields i)).getD k false) ∧
      (∀ k, k < s.bitlen ∨ t.bitlen ≤ k → bufBit t.buf k = bufBit s.buf k) ∧
      t = { s with buf := t.buf, bitlen := t.bitlen, lastResp := .ok } := by
  have hcap : 8 * s.buf.length = s.build.capBits := by rw [hsized, capBits_eq hlegal]
  have hfit : s.bitlen + (bitsOf (appendedFields i)).length ≤ 8 * s.buf.length := hcap ▸ fits_of_append happend hchecks
  have hlen := putAll_bitlen s (appendedFields i)
  refine ⟨respondOk (putAll s (appendedFields i)), ?_, hlen, fun k hk => ?_, fun k hk => ?_, ?_⟩
  · rw [exec_eq_answer, answer_append happend hchecks]
  · exact bufBit_putAll_inside hfit hk
  · rw [respondOk_bitlen, hlen] at hk
    exact bufBit_putAll_outside hfit hk
  · rw [putAll_eq]
    rfl

end Append

/-- Settles O18: the operands pass the checks, and the bits `exec_append` writes are those of one field. -/
theorem bbAppendWritesTheField : Obligations.BbAppendWritesTheField := by
  intro width value s hlegal hsized hmin hmax hrange hfit
  obtain ⟨t, hexec, hlen, hbits, hrest⟩ :=
    exec_append (i := .bbAppend width value) rfl hlegal hsized (firstError_bbAppend_eq_none hmin hmax hrange hfit)
  rw [appendedFields, bitsOf_singleton, BitField.length_bits] at hlen hbits
  refine ⟨t, hexec, hlen, fun i hi => ?_, hrest⟩
  rw [hbits i hi, BitField.getD_bits _ hi, BitVec.testBit_toNat]

/-! ### EBV -/

/-- Bit `i` of a bit vector taken whole is its bit `i`, counted from the most significant (R100). -/
theorem getD_bits_fieldOf {w : Nat} (v : BitVec w) {i : Nat} (hi : i < w) :
    (fieldOf v).bits.getD i false = v.getLsbD (w - 1 - i) :=
  ((fieldOf v).getD_bits hi).trans (BitVec.testBit_toNat v)

/-- Bit `8j + b` of bytes appended one after the other is bit `b` of byte `j`, counted from the most significant (R122). -/
theorem getD_bitsOf_bytes {gs : List Byte} {j b : Nat} {g : Byte} (hg : gs[j]? = some g) (hb : b < 8) :
    (bitsOf (gs.map fieldOf)).getD (8 * j + b) false = g.getLsbD (7 - b) := by
  induction gs generalizing j with
  | nil => cases hg
  | cons g' gs ih =>
    have hlen : (fieldOf g').bits.length = 8 := BitField.length_bits _
    rw [List.map_cons, bitsOf_cons]
    cases j with
    | zero =>
      obtain rfl : g' = g := Option.some.inj hg
      rw [Nat.mul_zero, Nat.zero_add, List.getD_append _ _ _ _ (by omega), getD_bits_fieldOf g' hb]
    | succ j =>
      have hskip : 8 * (j + 1) + b - 8 = 8 * j + b := by omega
      rw [List.getD_append_right _ _ _ _ (by omega), hlen, hskip]
      exact ih hg

/-- Room for all groups passes the check of `BB_EBV` (R122). -/
theorem firstError_bbEbv_eq_none {value : Word32} {s : State} (hfit : s.bitlen + ebvWidth value.toNat ≤ s.build.capBits) :
    firstError (.bbEbv value) s = Option.none := if_neg (Nat.not_lt.mpr hfit)

/-- Settles O19: with room the bits `exec_append` writes are those of the groups; without, the only check reports. -/
theorem bbEbvWritesAllGroupsOrNone : Obligations.BbEbvWritesAllGroupsOrNone := by
  intro value s
  refine ⟨fun hlegal hsized hfit => ?_, fun hover => ?_⟩
  · obtain ⟨t, hexec, hlen, hbits, hrest⟩ :=
      exec_append (i := .bbEbv value) rfl hlegal hsized (firstError_bbEbv_eq_none hfit)
    have hwidth : (bitsOf (appendedFields (.bbEbv value))).length = 8 * (ebvGroups value.toNat).length :=
      length_bitsOf_ebvFields value.toNat
    rw [hwidth] at hlen hbits
    refine ⟨t, hexec, hlen, fun j b g hg hb => ?_, hrest⟩
    have hj : j < (ebvGroups value.toNat).length := (List.getElem?_eq_some_iff.mp hg).1
    rw [Nat.add_assoc, hbits _ (by omega)]
    exact getD_bitsOf_bytes hg hb
  · have hcheck : firstError (.bbEbv value) s = some .overflow := if_pos hover
    rw [exec_eq_answer, answer_of_some hcheck]
    rfl

/-! ### Lists of appends -/

/-- Only a command that passes its checks responds `OK` (R263). -/
theorem firstError_eq_none_of_lastResp {i : Instr} {s : State} (h : (answer i s).lastResp = .ok) :
    firstError i s = Option.none := by
  cases hi : firstError i s with
  | none => rfl
  | some e =>
    rw [answer_of_some hi] at h
    cases h

/-- A list of commands that all respond `OK`: the first does, and then the others do (R263). -/
theorem runOk_cons_eq_some {i : Instr} {is : List Instr} {s t : State} :
    runOk (i :: is) s = some t ↔ (answer i s).lastResp = .ok ∧ runOk is (answer i s) = some t := by
  simp [runOk, exec_eq_answer]

/-- Appends that all respond `OK` fit the capacity together and append all their fields (R126). -/
theorem runOk_appends {is : List Instr} {s t : State} (happend : ∀ i ∈ is, isAppend i = true)
    (hlen : s.bitlen ≤ s.build.capBits) (hrun : runOk is s = some t) :
    s.bitlen + (bitsOf (is.flatMap appendedFields)).length ≤ s.build.capBits ∧
      t = { putAll s (is.flatMap appendedFields) with lastResp := t.lastResp } := by
  induction is generalizing s with
  | nil =>
    obtain rfl : s = t := Option.some.inj hrun
    exact ⟨hlen, rfl⟩
  | cons i is ih =>
    obtain ⟨hi, his⟩ := List.forall_mem_cons.mp happend
    obtain ⟨hok, hrest⟩ := runOk_cons_eq_some.mp hrun
    have hchecks := firstError_eq_none_of_lastResp hok
    rw [answer_append hi hchecks] at hrest
    obtain ⟨hfit, ht⟩ := ih his (by simpa [putAll_bitlen] using fits_of_append hi hchecks) hrest
    constructor
    · simpa [putAll_bitlen, length_bitsOf_append, Nat.add_assoc] using hfit
    · refine ht.trans ?_
      rw [List.flatMap_cons, putAll_append, putAll_respondOk]
      rfl

/-- Settles O22: by `runOk_appends` the run is one append of all the fields, but for the response. -/
theorem packedContentIsTheConcatenation : Obligations.PackedContentIsTheConcatenation := by
  intro is s t hlegal hsized happend hzero hlen hrun
  obtain ⟨hroom, ht⟩ := runOk_appends happend hlen hrun
  have hcap : 8 * s.buf.length = s.build.capBits := by rw [hsized, capBits_eq hlegal]
  have hfit := hcap ▸ hroom
  rw [ht]
  refine ⟨content_putAll hfit, zeroTail_putAll hfit hzero, ?_, ?_⟩
  · exact (putAll_bitlen s _).trans (congrArg _ (length_bitsOf _))
  · rw [putAll_eq]

/-! ### Splitting a field -/

/-- The bits of a field are those of its high part, then those of its low part (R127). -/
theorem BitField.bits_add (w1 w2 v : Nat) :
    BitField.bits ⟨w1 + w2, v⟩ = BitField.bits ⟨w1, v / 2 ^ w2⟩ ++ BitField.bits ⟨w2, v % 2 ^ w2⟩ := by
  simp only [BitField.bits, List.range_add, List.map_append, List.map_map]
  congr 1
  · refine List.map_congr_left fun i hi => ?_
    have hi : i < w1 := List.mem_range.mp hi
    have hbit : w1 + w2 - 1 - i = w1 - 1 - i + w2 := by omega
    rw [hbit, Nat.testBit_div_two_pow]
  · refine List.map_congr_left fun i hi => ?_
    have hi : i < w2 := List.mem_range.mp hi
    have hbit : w1 + w2 - 1 - (w1 + i) = w2 - 1 - i := by omega
    rw [Function.comp_apply, hbit, Nat.testBit_mod_two_pow, decide_eq_true (by omega), Bool.true_and]

/-- The bits of a field are those of its bits taken as one-bit fields (R127). -/
theorem bitsOf_oneBitFields (w v : Nat) :
    bitsOf ((List.range w).map fun i => ⟨1, v / 2 ^ (w - 1 - i) % 2⟩) = BitField.bits ⟨w, v⟩ := by
  have hbit (k : Nat) : BitField.bits ⟨1, v / 2 ^ k % 2⟩ = [v.testBit k] := by
    simp [BitField.bits, Nat.testBit_eq_decide_div_mod_eq]
  simp only [bitsOf, List.flatMap_map, hbit, ← List.map_eq_flatMap]
  rfl

/-- Settles O23: the fields on the two sides have the same bits, by `BitField.bits_add` and `bitsOf_oneBitFields`. -/
theorem aFieldEqualsItsParts : Obligations.AFieldEqualsItsParts := by
  refine ⟨fun s v w1 w2 _ _ _ _ _ => ?_, fun s v w _ _ _ _ => ?_⟩
  · refine putAll_congr s (fs := [_]) (gs := [_, _]) ?_
    rw [bitsOf_singleton, BitField.bits_add, bitsOf_cons, bitsOf_singleton]
  · refine putAll_congr s (fs := [_]) ?_
    rw [bitsOf_singleton, bitsOf_oneBitFields]

end Sys2Proof.Machine
end

/-! # Proofs of the family 42_select_builder

A successful `SEL_BUILD` is one `putAll` of the frame's fields on a cleared buffer (`exec_selBuild`), and so is the sequence of
primitive commands (`runCommands_appends`); the parser takes the frame's fields apart in order (`selectParse_frame`). -/

section

namespace Sys2Proof.Machine

open Sys2Proof.Config

/-- Settles O24: the command's effect is one write to the mask file. -/
theorem maskLdWritesOneByte : Obligations.MaskLdWritesOneByte := by
  intro idx byte s
  refine ⟨respondOk (effect (.maskLd idx byte) s), rfl, fun i => ?_, rfl⟩
  show (s.mask.set idx.toNat byte idx.isLt)[i.val] = _
  rw [Vector.getElem_set]
  simp only [eq_comm (a := idx.toNat), Fin.getElem_fin]

/-! ### A successful `SEL_BUILD` -/

section SelBuild

variable {target action bank : BitVec 4} {masklen : BitVec 12} (hlegal : selectLegal target action bank masklen)

include hlegal

/-- With legal operands `SEL_BUILD` appends the frame's fields to a cleared buffer (R141). -/
theorem exec_selBuild (pointer : Word32) (s : State) :
    exec (.selBuild target action bank masklen pointer) s =
      .next (respondOk (putAll (clearBuffer s)
        (selectFields s.build.selectCmdCode s.mask target action bank masklen pointer))) := by
  rw [exec_eq_answer, answer_of_none (firstError_selBuild_eq_none hlegal pointer s), effect]

/-- Every legal build has room for every Select frame (R7, R143). -/
theorem length_selectFields_le {b : Build} (hbuild : b.Legal) (cmdCode : BitVec 4) (m : MaskFile) (pointer : Word32) :
    (bitsOf (selectFields cmdCode m target action bank masklen pointer)).length ≤ b.capBits := by
  have hpointer := ebvWidth_le pointer
  obtain ⟨hmin, -⟩ := hbuild
  obtain ⟨-, -, -, hlen⟩ := hlegal
  rw [length_bitsOf_selectFields]
  omega

end SelBuild

/-! ### The length of a frame -/

theorem ebvWidth_eq (v : Nat) : ebvWidth v = 8 * ebvCount v := by rw [ebvWidth, length_ebvGroups]

/-- Settles O26: `length_bitsOf_selectFields`, with the least and the greatest number of groups by `ebvCount_le_iff`. -/
theorem selectFrameLength : Obligations.SelectFrameLength := by
  intro target action bank masklen pointer s hlegal
  refine ⟨_, exec_selBuild hlegal pointer s, ?_⟩
  rw [respondOk_bitlen, putAll_bitlen, clearBuffer_bitlen, length_bitsOf_selectFields, length_ebvGroups, ebvWidth_eq]
  obtain ⟨-, -, -, hlen⟩ := hlegal
  have hone := one_le_ebvCount pointer.toNat
  have hshort : ebvCount pointer.toNat ≤ 1 ↔ pointer.toNat < 128 ^ 1 := ebvCount_le_iff (by decide)
  have hlong : ebvCount pointer.toNat ≤ 4 ↔ pointer.toNat < 128 ^ 4 := ebvCount_le_iff (by decide)
  have hfive : ebvCount pointer.toNat ≤ 5 ↔ pointer.toNat < 128 ^ 5 := ebvCount_le_iff (by decide)
  have hpointer := pointer.isLt
  omega

/-! ### Trailing mask bits -/

/-- What is appended to a cleared buffer depends on the capacity and the bits alone (R141). -/
theorem putAll_clearBuffer_buf (s : State) (fs : List BitField) :
    (putAll (clearBuffer s) fs).buf = writeBits (List.replicate s.build.capBytes 0#8) 0 (bitsOf fs) := by
  rw [putAll_eq]
  rfl

/-- The bits of a frame depend on the first `masklen` bits of the mask file alone (R142, R146). -/
theorem bitsOf_selectFields_congr {m m' : MaskFile} {masklen : BitVec 12}
    (hmask : ∀ j, j < masklen.toNat → maskBit m j = maskBit m' j) (cmdCode target action bank : BitVec 4) (pointer : Word32) :
    bitsOf (selectFields cmdCode m target action bank masklen pointer) =
      bitsOf (selectFields cmdCode m' target action bank masklen pointer) := by
  have hbits : maskBits m masklen.toNat = maskBits m' masklen.toNat :=
    List.map_congr_left fun j hj => hmask j (List.mem_range.mp hj)
  rw [bitsOf_selectFields, bitsOf_selectFields, hbits]

/-- Settles O29: the two frames have the same bits, written to cleared buffers of one capacity. -/
theorem trailingMaskBitsAreIgnored : Obligations.TrailingMaskBitsAreIgnored := by
  intro target action bank masklen pointer s s' t t' hbuild hlegal hmask hexec hexec'
  rw [exec_selBuild hlegal, Host.Outcome.next.injEq] at hexec hexec'
  subst hexec hexec'
  have hbits := bitsOf_selectFields_congr hmask s'.build.selectCmdCode target action bank pointer
  rw [respondOk_buf, respondOk_buf, respondOk_bitlen, respondOk_bitlen, putAll_clearBuffer_buf, putAll_clearBuffer_buf,
    putAll_bitlen, putAll_bitlen, hbuild, hbits]
  exact ⟨rfl, rfl⟩

/-! ### The parser -/

/-- The first field of a list of bits is read as its value (R108). -/
theorem natOfBits_take_bits {w v : Nat} (hv : v < 2 ^ w) (rest : List Bool) :
    natOfBits ((BitField.bits ⟨w, v⟩ ++ rest).take w) = v := by
  have hlen : (BitField.bits ⟨w, v⟩).length = w := BitField.length_bits _
  rw [List.take_left' hlen, natOfBits_bits, Nat.mod_eq_of_lt hv]

/-- The bits after the first field. -/
theorem drop_bits (w v : Nat) (rest : List Bool) : (BitField.bits ⟨w, v⟩ ++ rest).drop w = rest :=
  List.drop_left' (BitField.length_bits _)

/-- The parser reads each part of a frame whose values fit their fields (R108). -/
theorem selectParse_frame (cmdCode : BitVec 4) {target action bank masklen : Nat} (pointer : Nat) {mask : List Bool}
    (truncate : Bool) (htarget : target < 2 ^ 3) (haction : action < 2 ^ 3) (hbank : bank < 2 ^ 2) (hlen : masklen < 2 ^ 8)
    (hmask : mask.length = masklen) :
    selectParse cmdCode
        (BitField.bits ⟨4, cmdCode.toNat⟩ ++ (BitField.bits ⟨3, target⟩ ++ (BitField.bits ⟨3, action⟩ ++
          (BitField.bits ⟨2, bank⟩ ++ (bitsOf (ebvFields pointer) ++ (BitField.bits ⟨8, masklen⟩ ++ (mask ++ [truncate]))))))) =
      some ⟨target, action, bank, pointer, masklen, mask, truncate⟩ := by
  generalize hrest : BitField.bits ⟨8, masklen⟩ ++ (mask ++ [truncate]) = rest
  generalize hafter12 : bitsOf (ebvFields pointer) ++ rest = after12
  generalize hafter10 : BitField.bits ⟨2, bank⟩ ++ after12 = after10
  generalize hafter7 : BitField.bits ⟨3, action⟩ ++ after10 = after7
  generalize hafter4 : BitField.bits ⟨3, target⟩ ++ after7 = after4
  generalize hframe : BitField.bits ⟨4, cmdCode.toNat⟩ ++ after4 = frame
  have hdrop4 : frame.drop 4 = after4 := hframe ▸ drop_bits ..
  have hdrop7 : frame.drop 7 = after7 := by rw [← List.drop_drop (i := 3) (j := 4), hdrop4, ← hafter4, drop_bits]
  have hdrop10 : frame.drop 10 = after10 := by rw [← List.drop_drop (i := 3) (j := 7), hdrop7, ← hafter7, drop_bits]
  have hdrop12 : frame.drop 12 = after12 := by rw [← List.drop_drop (i := 2) (j := 10), hdrop10, ← hafter10, drop_bits]
  have hcode : natOfBits (frame.take 4) = cmdCode.toNat := hframe ▸ natOfBits_take_bits cmdCode.isLt _
  have hlong : ¬ frame.length < 12 := by
    simp only [← hframe, ← hafter4, ← hafter7, ← hafter10, List.length_append, BitField.length_bits]
    omega
  have hpointer : ebvDecode after12 = some (pointer, rest) := hafter12 ▸ ebvDecode_ebvFields 0 pointer rest
  have hmasklen : natOfBits (rest.take 8) = masklen := hrest ▸ natOfBits_take_bits hlen _
  have hdrop : rest.drop 8 = mask ++ [truncate] := hrest ▸ drop_bits ..
  have hlast : rest.drop (8 + masklen) = [truncate] := by rw [← List.drop_drop, hdrop, List.drop_left' hmask]
  have hall : rest.length = 8 + masklen + 1 := by
    simp only [← hrest, List.length_append, BitField.length_bits, hmask, List.length_singleton, Nat.add_assoc]
  rw [selectParse, if_neg hlong, if_neg (not_not.mpr hcode), hdrop4, hdrop7, hdrop10, hdrop12, hpointer]
  simp only [hmasklen, if_pos hall, hdrop, List.take_left' hmask, hlast, List.headD_cons, ← hafter4, ← hafter7, ← hafter10,
    natOfBits_take_bits htarget, natOfBits_take_bits haction, natOfBits_take_bits hbank]

/-- Settles O28: the content of the buffer is the frame (`selBuildBuildsTheFrame`), and legal operands fit their fields. -/
theorem selectFrameParsesBack : Obligations.SelectFrameParsesBack := by
  intro target action bank masklen pointer s hbuild hlegal
  obtain ⟨t, hexec, hcontent, -⟩ := selBuildBuildsTheFrame target action bank masklen pointer s hbuild hlegal
  obtain ⟨htarget, haction, hbank, hlen⟩ := hlegal
  have hpointer : (ebvGroups pointer.toNat).flatMap (fun g => BitField.bits ⟨8, g.toNat⟩) = bitsOf (ebvFields pointer.toNat) :=
    (List.flatMap_map ..).symm
  refine ⟨t, hexec, ?_⟩
  rw [hcontent, hpointer]
  simp only [List.append_assoc]
  exact selectParse_frame _ pointer.toNat false (by omega) (by omega) (by omega) (by omega) (by simp [maskBits])

/-! ### The sequence of primitive commands -/

/-- Commands in order answer the last of their answers (R74, R271). -/
theorem runCommands_eq_foldl (is : List Instr) (s : State) : runCommands is s = .next (is.foldl (fun s i => answer i s) s) := by
  induction is generalizing s with
  | nil => rfl
  | cons i is ih => rw [runCommands, exec_eq_answer, List.foldl_cons, ← ih]

/-- The field passes the width check and the range check of `BB_APPEND` (R121). -/
def BitField.Legal (f : BitField) : Prop := fieldMinWidth ≤ f.width ∧ f.width ≤ fieldMaxWidth ∧ f.value < 2 ^ f.width

/-- A bit vector taken whole is a legal field when its width is one (R121). -/
theorem BitField.legal_fieldOf {w : Nat} (v : BitVec w) (hmin : fieldMinWidth ≤ w) (hmax : w ≤ fieldMaxWidth) :
    (fieldOf v).Legal := ⟨hmin, hmax, v.isLt⟩

/-- A value up to a bound that fits a legal width is a legal field (R121). -/
theorem BitField.legal_of_le {w v bound : Nat} (hv : v ≤ bound) (hbound : bound < 2 ^ w) (hmin : fieldMinWidth ≤ w)
    (hmax : w ≤ fieldMaxWidth) : BitField.Legal ⟨w, v⟩ := ⟨hmin, hmax, Nat.lt_of_le_of_lt hv hbound⟩

/-- The `r` most significant bits of a byte are a legal field (R121, R141). -/
theorem BitField.legal_highBits (byte : Byte) {r : Nat} (hpos : 0 < r) (hr : r < 8) :
    BitField.Legal ⟨r, byte.toNat / 2 ^ (8 - r)⟩ := by
  refine ⟨hpos, (Nat.le_of_lt hr).trans (by decide), Nat.div_lt_of_lt_mul ?_⟩
  rw [← Nat.pow_add, Nat.sub_add_cancel (Nat.le_of_lt hr)]
  exact byte.isLt

/-- An append of legal fields that fit the capacity passes its checks (R121, R122). -/
theorem firstError_append_eq_none {i : Instr} {s : State} (happend : isAppend i = true)
    (hfields : ∀ f ∈ appendedFields i, f.Legal)
    (hfit : s.bitlen + (bitsOf (appendedFields i)).length ≤ s.build.capBits) : firstError i s = Option.none := by
  cases i
  case bbAppend width value =>
    obtain ⟨hmin, hmax, hrange⟩ := hfields _ (List.mem_singleton_self _)
    rw [appendedFields, bitsOf_singleton, BitField.length_bits] at hfit
    exact firstError_bbAppend_eq_none hmin hmax hrange hfit
  case bbEbv value =>
    rw [appendedFields, length_bitsOf_ebvFields] at hfit
    exact firstError_bbEbv_eq_none hfit
  all_goals cases happend

/-- Appends of legal fields that together fit the capacity all succeed, and append all their fields (R121, R126). -/
theorem runCommands_appends {is : List Instr} {s : State} (happend : ∀ i ∈ is, isAppend i = true)
    (hfields : ∀ f ∈ is.flatMap appendedFields, f.Legal)
    (hfit : s.bitlen + (bitsOf (is.flatMap appendedFields)).length ≤ s.build.capBits) :
    runCommands is (respondOk s) = .next (respondOk (putAll s (is.flatMap appendedFields))) := by
  induction is generalizing s with
  | nil => rfl
  | cons i is ih =>
    obtain ⟨hi, his⟩ := List.forall_mem_cons.mp happend
    rw [List.flatMap_cons, List.forall_mem_append] at hfields
    obtain ⟨hfield, hfields⟩ := hfields
    rw [List.flatMap_cons, length_bitsOf_append] at hfit
    have hchecks : firstError i (respondOk s) = Option.none :=
      firstError_append_eq_none hi hfield (by rw [respondOk_bitlen, respondOk_build]; omega)
    rw [runCommands, exec_eq_answer, answer_append hi hchecks, putAll_respondOk]
    refine (ih (s := putAll s (appendedFields i)) his hfields ?_).trans ?_
    · rw [putAll_bitlen, putAll_build]
      omega
    · rw [List.flatMap_cons, putAll_append]

/-- An append of a narrower value appends that value (R97, R121). -/
theorem appendedFields_setWidth {n : Nat} (width : BitVec 6) (v : BitVec n) (hn : n ≤ 32) :
    appendedFields (.bbAppend width (v.setWidth 32)) = [⟨width.toNat, v.toNat⟩] := by
  rw [appendedFields, BitVec.toNat_setWidth_of_le hn]

/-- The most significant bits of a byte fit the operands of `BB_APPEND` (R82, R144). -/
theorem appendedFields_highBits (byte : Byte) {r : Nat} (hr : r < 8) :
    appendedFields (.bbAppend (BitVec.ofNat 6 r) (BitVec.ofNat 32 (byte.toNat / 2 ^ (8 - r)))) =
      [⟨r, byte.toNat / 2 ^ (8 - r)⟩] := by
  have hvalue : byte.toNat / 2 ^ (8 - r) < 2 ^ 32 := (Nat.div_le_self _ _).trans_lt (byte.isLt.trans (by decide))
  rw [appendedFields, BitVec.toNat_ofNat, BitVec.toNat_ofNat, Nat.mod_eq_of_lt (hr.trans (by decide)), Nat.mod_eq_of_lt hvalue]

/-- The commands of R144 after `BB_CLEAR`. -/
def frameAppends (cmdCode : BitVec 4) (m : MaskFile) (target action bank : BitVec 4) (masklen : BitVec 12)
    (pointer : Word32) : List Instr := (primitiveFrame cmdCode m target action bank masklen pointer).tail

section Primitive

variable {cmdCode : BitVec 4} {m : MaskFile} {target action bank : BitVec 4} {masklen : BitVec 12} {pointer : Word32}

theorem primitiveFrame_eq_cons : primitiveFrame cmdCode m target action bank masklen pointer =
    .bbClear :: frameAppends cmdCode m target action bank masklen pointer := rfl

/-- Every primitive command but the first is an append (R144). -/
theorem isAppend_of_mem_frameAppends {i : Instr} (hi : i ∈ frameAppends cmdCode m target action bank masklen pointer) :
    isAppend i = true := by
  simp only [frameAppends, primitiveFrame, List.cons_append, List.nil_append, List.tail_cons, List.mem_cons, List.mem_append,
    List.mem_map, List.mem_ite_nil_right, List.not_mem_nil, or_false] at hi
  rcases hi with rfl | rfl | rfl | rfl | rfl | rfl | (⟨_, -, rfl⟩ | ⟨-, rfl⟩) | rfl <;> rfl

/-- The primitive commands append the fields `SEL_BUILD` appends (R144). -/
theorem flatMap_appendedFields_frameAppends :
    (frameAppends cmdCode m target action bank masklen pointer).flatMap appendedFields =
      selectFields cmdCode m target action bank masklen pointer := by
  have hbits := appendedFields_highBits (maskByte m (masklen.toNat / 8)) (Nat.mod_lt masklen.toNat (by decide))
  have htruncate : appendedFields (.bbAppend 1 0#32) = [fieldOf selTruncate] := rfl
  have hpointer : appendedFields (.bbEbv pointer) = ebvFields pointer.toNat := rfl
  simp only [frameAppends, primitiveFrame, List.cons_append, List.nil_append, List.tail_cons, List.flatMap_cons,
    List.flatMap_append, List.flatMap_map, List.flatMap_nil, apply_ite (List.flatMap appendedFields), List.append_nil,
    appendedFields_setWidth, Nat.reduceLeDiff, ← List.map_eq_flatMap, hbits, hpointer, htruncate,
    selectFields, selectHead, maskFields, List.append_assoc]
  rfl

/-- Every field of a Select frame with legal operands has a legal width and fits it (R104, R141). -/
theorem legal_of_mem_selectFields (hlegal : selectLegal target action bank masklen) :
    ∀ f ∈ selectFields cmdCode m target action bank masklen pointer, f.Legal := by
  intro f hf
  obtain ⟨htarget, haction, hbank, hlen⟩ := hlegal
  simp only [selectFields, selectHead, maskFields, ebvFields, List.cons_append, List.nil_append, List.mem_cons, List.mem_append,
    List.mem_map, List.mem_ite_nil_right, List.not_mem_nil, or_false] at hf
  rcases hf with rfl | rfl | rfl | rfl | ((⟨g, -, rfl⟩ | rfl) | (⟨j, -, rfl⟩ | ⟨hr, rfl⟩)) | rfl
  · exact BitField.legal_fieldOf cmdCode (by decide) (by decide)
  · exact BitField.legal_of_le htarget (by decide) (by decide) (by decide)
  · exact BitField.legal_of_le haction (by decide) (by decide) (by decide)
  · exact BitField.legal_of_le hbank (by decide) (by decide) (by decide)
  · exact BitField.legal_fieldOf g (by decide) (by decide)
  · exact BitField.legal_of_le hlen (by decide) (by decide) (by decide)
  · exact BitField.legal_fieldOf (maskByte m j) (by decide) (by decide)
  · exact BitField.legal_highBits _ (Nat.pos_of_ne_zero hr) (Nat.mod_lt _ (by decide))
  · exact BitField.legal_fieldOf selTruncate (by decide) (by decide)

end Primitive

/-- Illegal operands fail a check of `SEL_BUILD` (R141). -/
theorem firstError_selBuild_eq_some {target action bank : BitVec 4} {masklen : BitVec 12}
    (hillegal : ¬ selectLegal target action bank masklen) (pointer : Word32) (s : State) :
    ∃ e, firstError (.selBuild target action bank masklen pointer) s = some e := by
  rw [firstError]
  split_ifs with htarget haction hbank hlen
  · exact ⟨_, rfl⟩
  · exact ⟨_, rfl⟩
  · exact ⟨_, rfl⟩
  · exact ⟨_, rfl⟩
  · exact absurd ⟨Nat.le_of_not_gt htarget, Nat.le_of_not_gt haction, Nat.le_of_not_gt hbank, Nat.le_of_not_gt hlen⟩ hillegal

/-- Settles O27: with legal operands both are one append of the frame's fields to a cleared buffer; with illegal ones `SEL_BUILD`
raises an error, and the sequence with target 8 goes on after its second append has failed. -/
theorem selBuildEqualsThePrimitiveCommands : Obligations.SelBuildEqualsThePrimitiveCommands := by
  refine ⟨fun target action bank masklen pointer s => ⟨fun hbuild hlegal => ?_, fun hillegal => ?_⟩,
    8, 0, 0, 0, 0, State.reset, _, by decide, fun hlegal => absurd hlegal.1 (by decide), runCommands_eq_foldl .., by decide⟩
  · refine ⟨_, exec_selBuild hlegal pointer s, ?_⟩
    have hfields := flatMap_appendedFields_frameAppends (cmdCode := s.build.selectCmdCode) (m := s.mask) (target := target)
      (action := action) (bank := bank) (masklen := masklen) (pointer := pointer)
    rw [primitiveFrame_eq_cons, runCommands, exec_eq_answer, ← hfields]
    refine runCommands_appends (s := clearBuffer s) (fun _ hi => isAppend_of_mem_frameAppends hi) ?_ ?_
    · rw [hfields]
      exact legal_of_mem_selectFields hlegal
    · rw [hfields, clearBuffer_bitlen, Nat.zero_add]
      exact length_selectFields_le hlegal hbuild ..
  · obtain ⟨e, he⟩ := firstError_selBuild_eq_some hillegal pointer s
    exact ⟨raise e s, by rw [exec_eq_answer, answer_of_some he], raise_buf e s, raise_bitlen e s⟩

end Sys2Proof.Machine
end

/-! # Proofs of the family 43_crc16

Over XOR the shift register is linear, and its iteration has no kernel (`crc16Shift_xor`, `crc16Shift_eq_zero`). Linearity makes two
bytes one word XORed in before 16 iterations (`crc16Update_crc16Update`), which is the residue law; the trivial kernel makes every
byte fed keep a difference of the register (`crc16Feed_injective`), which is the detection of a flipped bit. -/

section

namespace Sys2Proof.Machine

open Sys2Proof.Config

/-! ### The iteration of R163 -/

/-- The iteration is linear over XOR: the polynomial is XORed in once for each top bit that is set (R163). -/
theorem crc16Shift_xor (x y : Word16) : crc16Shift (x ^^^ y) = crc16Shift x ^^^ crc16Shift y := by
  simp only [crc16Shift, BitVec.msb_xor, BitVec.shiftLeft_xor_distrib]
  cases x.msb <;> cases y.msb
  · rfl
  · exact BitVec.xor_assoc ..
  · show x <<< 1 ^^^ y <<< 1 ^^^ crcPoly = x <<< 1 ^^^ crcPoly ^^^ y <<< 1
    ac_rfl
  · calc x <<< 1 ^^^ y <<< 1
        = x <<< 1 ^^^ y <<< 1 ^^^ (crcPoly ^^^ crcPoly) := by rw [BitVec.xor_self, BitVec.xor_zero]
      _ = x <<< 1 ^^^ crcPoly ^^^ (y <<< 1 ^^^ crcPoly) := by ac_rfl

/-- The iteration loses nothing: with the top bit set the polynomial's constant term stays in bit 0, and without it the shift drops
a 0 (R163, R168). -/
theorem crc16Shift_eq_zero {r : Word16} (h : crc16Shift r = 0#16) : r = 0#16 := by
  unfold crc16Shift at h
  split at h
  next htop =>
    have hbit : ((r <<< 1) ^^^ crcPoly).getLsbD 0 = true := by simp [crcPoly]
    rw [h] at hbit
    cases hbit
  next htop =>
    have hsmall : r.toNat < 2 ^ 15 := by simpa [BitVec.msb_eq_decide] using htop
    bv_omega

theorem crc16Shift_injective : Function.Injective crc16Shift := fun x y h =>
  BitVec.xor_eq_zero_iff.mp (crc16Shift_eq_zero (by rw [crc16Shift_xor, h, BitVec.xor_self]))

/-! ### Several iterations -/

theorem crc16Shifts_xor (n : Nat) (x y : Word16) : crc16Shifts n (x ^^^ y) = crc16Shifts n x ^^^ crc16Shifts n y := by
  induction n generalizing x y with
  | zero => rfl
  | succ n ih => rw [crc16Shifts, crc16Shift_xor, ih, crc16Shifts, crc16Shifts]

theorem crc16Shifts_injective (n : Nat) : Function.Injective (crc16Shifts n) := by
  induction n with
  | zero => exact Function.injective_id
  | succ n ih => exact ih.comp crc16Shift_injective

theorem crc16Shifts_add (m n : Nat) (r : Word16) : crc16Shifts n (crc16Shifts m r) = crc16Shifts (m + n) r := by
  induction m generalizing r with
  | zero => rw [crc16Shifts, Nat.zero_add]
  | succ m ih => rw [crc16Shifts, ih, Nat.succ_add, crc16Shifts]

/-- As long as only zeros leave the register, the iterations are a plain shift (R163). -/
theorem crc16Shifts_eq_shiftLeft {n : Nat} {r : Word16} (h : r.toNat * 2 ^ n < 2 ^ 16) : crc16Shifts n r = r <<< n := by
  induction n generalizing r with
  | zero => exact (BitVec.shiftLeft_zero r).symm
  | succ n ih =>
    rw [Nat.pow_succ', ← Nat.mul_assoc] at h
    have hsmall : r.toNat * 2 < 2 ^ 16 := (Nat.le_mul_of_pos_right _ (Nat.two_pow_pos n)).trans_lt h
    have htop : r.msb = false := by rw [BitVec.msb_eq_decide]; exact decide_eq_false (by omega)
    have hshift : crc16Shift r = r <<< 1 := by simp [crc16Shift, htop]
    have htoNat : (r <<< 1).toNat = r.toNat * 2 := by rw [BitVec.toNat_shiftLeft, Nat.shiftLeft_eq, Nat.mod_eq_of_lt hsmall]
    rw [crc16Shifts, hshift, ih (by rwa [htoNat]), ← BitVec.shiftLeft_add, Nat.add_comm]

/-- A byte below the top of the register is shifted to the top by 8 iterations (R163). -/
theorem crc16Shifts_low_byte (lo : Byte) : crc16Shifts 8 (0#8 ++ lo) = lo ++ 0#8 := by
  have hbyte : (0#8 ++ lo).toNat = lo.toNat := by rw [BitVec.toNat_append, BitVec.toNat_zero, Nat.zero_shiftLeft, Nat.zero_or]
  have hlt : lo.toNat * 2 ^ 8 < 2 ^ 16 := Nat.mul_lt_mul_of_pos_right lo.isLt (by decide)
  rw [crc16Shifts_eq_shiftLeft (by rwa [hbyte])]
  refine BitVec.eq_of_toNat_eq ?_
  rw [BitVec.toNat_shiftLeft, hbyte, Nat.shiftLeft_eq, Nat.mod_eq_of_lt hlt, BitVec.toNat_append, Nat.shiftLeft_eq]
  exact (Nat.or_zero _).symm

/-! ### Feeding bytes -/

/-- Two bytes fed are their word XORed into the register before 16 iterations (R162, R163). -/
theorem crc16Update_crc16Update (r : Word16) (hi lo : Byte) :
    crc16Update (crc16Update r hi) lo = crc16Shifts 16 (r ^^^ (hi ++ lo)) := by
  have hword : (hi ++ 0#8) ^^^ (0#8 ++ lo) = (hi ++ lo : Word16) := by
    rw [BitVec.xor_append, BitVec.xor_zero, BitVec.zero_xor]
  calc crc16Update (crc16Update r hi) lo
      = crc16Shifts 8 (crc16Shifts 8 (r ^^^ (hi ++ 0#8)) ^^^ crc16Shifts 8 (0#8 ++ lo)) := by rw [crc16Shifts_low_byte]; rfl
    _ = crc16Shifts 16 (r ^^^ (hi ++ lo)) := by rw [← crc16Shifts_xor, crc16Shifts_add, BitVec.xor_assoc, hword]

/-- One byte fed keeps apart two registers that differ (R163). -/
theorem crc16Update_injective (b : Byte) : Function.Injective (crc16Update · b) :=
  (crc16Shifts_injective 8).comp fun _ _ h => (BitVec.xor_left_inj _).mp h

/-- Two bytes that differ, fed to one register, leave it different (R163). -/
theorem crc16Update_byte_injective (r : Word16) : Function.Injective (crc16Update r) := fun b b' h => by
  have hbytes : b ++ 0#8 = b' ++ 0#8 := (BitVec.xor_right_inj _).mp (crc16Shifts_injective 8 h)
  rw [← extractLsb_high_append b 0#8, hbytes, extractLsb_high_append]

@[simp] theorem crc16Feed_append (r : Word16) (bs cs : List Byte) : crc16Feed r (bs ++ cs) = crc16Feed (crc16Feed r bs) cs :=
  List.foldl_append

/-- The bytes that follow keep apart two registers that differ (R164). -/
theorem crc16Feed_injective (bs : List Byte) : Function.Injective (crc16Feed · bs) := by
  induction bs with
  | nil => exact Function.injective_id
  | cons b bs ih => exact ih.comp (crc16Update_injective b)

/-- The final XOR hides no difference: equal CRCs are equal registers (R164). -/
theorem crc16_eq_iff (bs cs : List Byte) : crc16 bs = crc16 cs ↔ crc16Feed crcInit bs = crc16Feed crcInit cs :=
  BitVec.xor_left_inj crcXorOut

/-- A byte in the middle of a message changed to another changes the CRC (R164, R168). -/
theorem crc16_ne_of_byte_ne (before after : List Byte) {b b' : Byte} (hne : b ≠ b') :
    crc16 (before ++ [b] ++ after) ≠ crc16 (before ++ [b'] ++ after) := fun h => by
  rw [crc16_eq_iff, crc16Feed_append, crc16Feed_append crcInit (before ++ [b'])] at h
  have hmiddle := crc16Feed_injective after h
  rw [crc16Feed_append, crc16Feed_append] at hmiddle
  exact hne (crc16Update_byte_injective _ hmiddle)

/-- Settles O33: the flipped byte is another byte, and any such change shows in the CRC. -/
theorem oneFlippedBitChangesTheCrc : Obligations.OneFlippedBitChangesTheCrc := by
  intro before after byte j
  refine crc16_ne_of_byte_ne before after fun h => ?_
  have hmask : (1#8 <<< j.val : Byte) = 0#8 := (BitVec.xor_right_inj byte).mp (h.symm.trans BitVec.xor_zero.symm)
  exact (by decide : ∀ j : Fin 8, (1#8 <<< j.val : Byte) ≠ 0#8) j hmask

/-- A register followed by its own complement, high byte first, is 16 iterations on `0xFFFF` (R167). -/
theorem crc16Feed_complement (r : Word16) :
    crc16Feed r [(r ^^^ crcXorOut).extractLsb 15 8, (r ^^^ crcXorOut).extractLsb 7 0] = 0x1D0F#16 := by
  have hxor : r ^^^ (r ^^^ crcXorOut) = crcXorOut := by rw [← BitVec.xor_assoc, BitVec.xor_self, BitVec.zero_xor]
  calc crc16Feed r [(r ^^^ crcXorOut).extractLsb 15 8, (r ^^^ crcXorOut).extractLsb 7 0]
      = crc16Shifts 16 crcXorOut := by
        refine (crc16Update_crc16Update ..).trans ?_
        rw [extractLsb_append_extractLsb, hxor]
    _ = 0x1D0F#16 := by decide +kernel

/-- Settles O32: a message's CRC is the complement of the register after it. -/
theorem crcResidueIsConstant : Obligations.CrcResidueIsConstant := by
  intro m
  have hresidue : crc16Feed 0xFFFF#16 (m ++ [(crc16 m).extractLsb 15 8, (crc16 m).extractLsb 7 0]) = 0x1D0F#16 :=
    (crc16Feed_append ..).trans (crc16Feed_complement (crc16Feed crcInit m))
  exact ⟨hresidue, by rw [hresidue]; decide⟩

/-! ### The CRC register along a run -/

/-- A command other than `RESET` and `CRC_INIT` feeds its bytes to `CRC_REG`: those of other units feed none, and do not write the
register by R20's table (R165). -/
theorem answer_crcReg {i : Instr} (hreset : i ≠ .reset) (hinit : i ≠ .crcInit) (s : State) :
    (answer i s).crcReg = crc16Feed s.crcReg (fedBytes i) := by
  obtain ⟨-, -, hkeep⟩ := registersAreWrittenOnlyByTheirCommands i s _ (exec_eq_answer i s)
  cases i
  case reset => exact absurd rfl hreset
  case crcInit => exact absurd rfl hinit
  case crcByte | crcWord => rfl
  all_goals exact hkeep .crc (by simp [writes])

/-- Such commands in order feed all their bytes in order (R165). -/
theorem foldl_answer_crcReg {is : List Instr} (hreset : Instr.reset ∉ is) (hinit : Instr.crcInit ∉ is) (s : State) :
    (is.foldl (fun s i => answer i s) s).crcReg = crc16Feed s.crcReg (is.flatMap fedBytes) := by
  induction is generalizing s with
  | nil => rfl
  | cons i is ih =>
    obtain ⟨hreset_ne, hreset_tail⟩ := List.ne_and_not_mem_of_not_mem_cons hreset
    obtain ⟨hinit_ne, hinit_tail⟩ := List.ne_and_not_mem_of_not_mem_cons hinit
    rw [List.foldl_cons, ih hreset_tail hinit_tail, answer_crcReg hreset_ne.symm hinit_ne.symm, List.flatMap_cons,
      crc16Feed_append]

/-- Settles O31: after `CRC_INIT` the register starts from `0xFFFF`, and the commands feed it the bytes of the stream. -/
theorem crcOutIsTheCrcOfTheStream : Obligations.CrcOutIsTheCrcOfTheStream := fun _ s hreset hinit =>
  ⟨_, runCommands_eq_foldl _ s, congrArg (· ^^^ crcXorOut) (foldl_answer_crcReg hreset hinit (answer .crcInit s))⟩

/-- Settles O30: each command is one assignment to `CRC_REG` and the response `OK`; the first of two `CRC_BYTE` leaves no other
trace, its `OK` being written again by the second. -/
theorem crcCommandsUpdateTheRegister : Obligations.CrcCommandsUpdateTheRegister :=
  ⟨fun _ => rfl, fun _ _ => rfl, fun _ _ => ⟨rfl, rfl⟩⟩

end Sys2Proof.Machine
end

/-! # Proofs of the family 44_calibration_decoder

A byte loaded is one element set in the byte image (`wordsToBytes_calLdb`). A mapping comes from a record whose codes differ and lie
in the variant's range (`CalRecord.Constructed.mapping_cases`), and its registers are bounded before they are read as signed numbers
(`mappingWith_exact`). A flipped bit replaces a word, which Variant A's CRC shows (`eq_of_decodeA_valid_set`), and changes the parity
of all 64 bits, which is even in every valid Variant B content (`wordsPopcount_of_decodeB_valid`). -/

section

namespace Sys2Proof.Machine

open Sys2Proof.Config

/-! ### Loading words -/

/-- Settles O34: the command's effect is one write to the word registers. -/
theorem calLdwWritesOneWord : Obligations.CalLdwWritesOneWord := by
  intro idx word s
  refine ⟨respondOk (effect (.calLdw idx word) s), rfl, fun i => ?_, rfl⟩
  show (s.calw.set idx.toNat word idx.isLt)[i.val] = _
  rw [Vector.getElem_set]
  simp only [eq_comm (a := idx.toNat), Fin.getElem_fin]

/-- The byte of a word that stands at place `j` of a byte image: the high byte at an even place (R67). -/
def byteAt (j : Nat) (w : Word16) : Byte := if j % 2 = 0 then w.extractLsb 15 8 else w.extractLsb 7 0

/-- Byte `j` of a byte image is a byte of word `j div 2` (R67). -/
theorem getElem?_wordsToBytes (ws : List Word16) (j : Nat) : (wordsToBytes ws)[j]? = ws[j / 2]?.map (byteAt j) := by
  induction ws generalizing j with
  | nil => rfl
  | cons w ws ih =>
    match j with
    | 0 => rfl
    | 1 => rfl
    | j + 2 =>
      have hdiv : (j + 2) / 2 = j / 2 + 1 := by omega
      have hbyte : byteAt (j + 2) = byteAt j := by funext w; simp [byteAt]
      rw [wordsToBytes, List.getElem?_cons_succ, List.getElem?_cons_succ, ih, hdiv, List.getElem?_cons_succ, hbyte]

/-- A word has two bytes (R67). -/
@[simp] theorem length_wordsToBytes (ws : List Word16) : (wordsToBytes ws).length = 2 * ws.length := by
  induction ws with
  | nil => rfl
  | cons w ws ih => rw [wordsToBytes, List.length_cons, List.length_cons, List.length_cons, ih]; omega

/-- Replacing one byte of a word leaves its other byte (R181). -/
theorem byteAt_replaceByte (idx : BitVec 3) (byte : Byte) (w : Word16) (j : Nat) :
    byteAt j (replaceByte idx byte w) = if j % 2 = idx.toNat % 2 then byte else byteAt j w := by
  unfold byteAt replaceByte
  rcases Nat.mod_two_eq_zero_or_one j with hj | hj <;> rcases Nat.mod_two_eq_zero_or_one idx.toNat with hi | hi
  · simp [hj, hi, extractLsb_high_append]
  · simp [hj, hi, extractLsb_high_append]
  · simp [hj, hi, extractLsb_low_append]
  · simp [hj, hi, extractLsb_low_append]

/-- `CAL_LDB` sets one byte of the byte image of the word registers (R181). -/
theorem wordsToBytes_calLdb (idx : BitVec 3) (byte : Byte) (s : State) :
    wordsToBytes (answer (.calLdb idx byte) s).calw.toList = (wordsToBytes s.calw.toList).set idx.toNat byte := by
  have hword := wordOfByte_lt idx
  have hcalw : (answer (.calLdb idx byte) s).calw.toList =
      s.calw.toList.set (idx.toNat / 2) (replaceByte idx byte (s.calw[idx.toNat / 2])) :=
    Vector.toList_set hword
  refine List.ext_getElem? fun j => ?_
  rw [hcalw, getElem?_wordsToBytes, List.getElem?_set, List.getElem?_set, getElem?_wordsToBytes]
  by_cases hj : idx.toNat / 2 = j / 2
  · have hlt : j / 2 < 4 := hj ▸ hword
    have hsame : j % 2 = idx.toNat % 2 ↔ idx.toNat = j := by omega
    by_cases he : idx.toNat = j
    · simp [hlt, byteAt_replaceByte, he, show j < 8 by omega]
    · simp [hj, hlt, byteAt_replaceByte, hsame, he]
  · have hne : idx.toNat ≠ j := fun h => hj (by rw [h])
    rw [if_neg hj, if_neg hne]

/-- Setting all eight elements of a list of eight leaves nothing of it. -/
theorem set_all_eight {α : Type} {l : List α} (hl : l.length = 8) (b0 b1 b2 b3 b4 b5 b6 b7 : α) :
    (((((((l.set 0 b0).set 1 b1).set 2 b2).set 3 b3).set 4 b4).set 5 b5).set 6 b6).set 7 b7 =
      [b0, b1, b2, b3, b4, b5, b6, b7] := by
  match l, hl with
  | [_, _, _, _, _, _, _, _], _ => rfl

/-- Settles O35: the byte image after the command is `wordsToBytes_calLdb`; after eight loads every byte of it is replaced, and the
words are those of their image. -/
theorem calLdbWritesOneByteOfTheImage : Obligations.CalLdbWritesOneByteOfTheImage := by
  refine ⟨fun idx byte s => ⟨_, exec_eq_answer _ s, fun j hj => ?_, rfl⟩, fun b0 b1 b2 b3 b4 b5 b6 b7 s => ?_⟩
  · have hin : idx.toNat < (wordsToBytes s.calw.toList).length := by simp; omega
    rw [wordsToBytes_calLdb, List.getElem?_set, if_pos hin]
    simp only [eq_comm (a := idx.toNat)]
  · refine ⟨_, runCommands_eq_foldl _ s, ?_⟩
    rw [← bytesToWords_wordsToBytes]
    refine congrArg bytesToWords ?_
    simp only [List.foldl_cons, List.foldl_nil, wordsToBytes_calLdb]
    exact (set_all_eight (by simp) ..).symm

/-- Settles O37: the record is `CalRecord.absent`, whose fields are 0 and which has no mapping to read. -/
theorem calClearMakesTheRecordAbsent : Obligations.CalClearMakesTheRecordAbsent := fun _ =>
  ⟨_, rfl, rfl, rfl, rfl, rfl, rfl, rfl, rfl, rfl, rfl, rfl, rfl, rfl,
    fun v r hr => unmappedMappingReadsAnything _ r hr rfl v, rfl⟩

/-! ### What every decoded record has -/

/-- The record of Variant B, before its mapping (R183, R188). -/
theorem decodeRecord_variantB (order : WordOrder) (w : WordFile) :
    decodeRecord order 1#2 w = withMapping (decodeB order w) := rfl

/-- The other word order is the exchange of the two words of each group (R110). -/
theorem decodeB_fptFirst (w : WordFile) : decodeB .fptFirst w = decodeB .codeFirst (swapGroupWords w) := rfl

/-- A reserved variant's record gets no mapping, being invalid (R190, R192). -/
theorem decodeRecord_reserved (order : WordOrder) {variant : BitVec 2} (hA : variant ≠ 0#2) (hB : variant ≠ 1#2)
    (w : WordFile) : decodeRecord order variant w = decodeReserved variant := by
  rw [decodeRecord, if_neg hA, if_neg hB]
  rfl

/-- Every decoded record has the variant it was decoded with (R183). -/
theorem decodeRecord_variant (order : WordOrder) (variant : BitVec 2) (w : WordFile) :
    (decodeRecord order variant w).variant = variant := by
  by_cases hA : variant = 0#2
  · subst hA; rfl
  by_cases hB : variant = 1#2
  · subst hB; cases order <;> rfl
  · rw [decodeRecord_reserved order hA hB]; rfl

/-- A valid record is one of Variant A or Variant B (R190). -/
theorem variant_of_valid {order : WordOrder} {variant : BitVec 2} {w : WordFile}
    (h : (decodeRecord order variant w).valid = true) : variant = 0#2 ∨ variant = 1#2 := by
  by_contra hne
  obtain ⟨hA, hB⟩ := not_or.mp hne
  rw [decodeRecord_reserved order hA hB] at h
  cases h

/-- The record after `CAL_DECODE` is the one decoded from the word registers (R183). -/
theorem cal_of_exec_calDecode {variant : BitVec 2} {s t : State} (h : exec (.calDecode variant) s = .next t) :
    t.cal = decodeRecord s.build.varbWordOrder variant s.calw := by
  obtain rfl := exec_eq_next.mp h
  rfl

/-- Settles O38: the command has no check to fail, and its record is `decodeRecord` of the words and the build's word order. -/
theorem calDecodeNeverFails : Obligations.CalDecodeNeverFails := by
  intro variant s
  have hcal := cal_of_exec_calDecode (exec_eq_answer (.calDecode variant) s)
  refine ⟨_, exec_eq_answer _ s, ?_, ?_, fun s' t' hbuild hcalw ht' => ?_, rfl⟩
  · rw [hcal, decodeRecord_present]
  · rw [hcal, decodeRecord_variant]
  · rw [cal_of_exec_calDecode ht', hbuild, hcalw, hcal]

/-! ### Validity -/

theorem validA_iff {chkStored chkCalc : Word16} {version : BitVec 3} :
    validA chkStored chkCalc version = true ↔ chkCalc = chkStored ∧ version = 0#3 := by
  simp [validA]

theorem validB_iff {fmt1 fmt2 : BitVec 3} {par1 exp1 par2 exp2 : BitVec 2} :
    validB fmt1 fmt2 par1 exp1 par2 exp2 = true ↔ fmt1 = 0#3 ∧ fmt2 = 0#3 ∧ par1 = exp1 ∧ par2 = exp2 := by
  simp [validB, and_assoc]

/-- Variant A is valid when word 0 is the CRC of the other words' bytes and the version is 0 (R186). -/
theorem decodeA_valid_iff (w : WordFile) :
    (decodeA w).valid = true ↔ w[0] = crc16 (wordsToBytes [w[1], w[2], w[3]]) ∧ w[3].extractLsb 1 0 = 0#2 := by
  have hversion (v : BitVec 2) : v.setWidth 3 = 0#3 ↔ v = 0#2 := by bv_omega
  unfold decodeA
  rw [validA_iff, hversion, eq_comm]

/-- Settles O40: `CAL_DECODE A` decodes by `decodeA`, and the mapping leaves the validity alone. -/
theorem variantAValidity : Obligations.VariantAValidity := by
  intro s t h
  rw [cal_of_exec_calDecode h, decodeRecord_variantA, withMapping_valid, decodeA_valid_iff]

/-- The expected parity bits as a number (R189). -/
theorem expectedParity_toNat (fmt : BitVec 3) (temp : BitVec 11) (code : Word16) :
    (expectedParity fmt temp code).toNat = (popcount fmt + popcount temp) % 2 * 2 + popcount code % 2 := by
  rw [expectedParity, BitVec.toNat_ofNat]
  omega

/-- The two groups' parity bits side by side, as a number (R188). -/
theorem toNat_parityPair (p q : BitVec 2) : ((p ++ q).setWidth 16 : Word16).toNat = p.toNat * 4 + q.toNat :=
  (BitVec.toNat_setWidth_of_le (by decide)).trans (toNat_append p q)

/-- The check registers agree exactly when both groups' parity bits do (R189). -/
theorem parityPair_inj {p q p' q' : BitVec 2} :
    ((p ++ q).setWidth 16 : Word16) = (p' ++ q').setWidth 16 ↔ p = p' ∧ q = q' := by
  simp only [← BitVec.toNat_inj, toNat_parityPair]
  omega

/-- Settles O41: the fields of a group are compared as numbers, and the check registers by `parityPair_inj`. -/
theorem variantBFieldsAndValidity : Obligations.VariantBFieldsAndValidity := by
  refine ⟨fun s horder => ⟨_, exec_eq_answer _ s, ?_⟩, fun s s' horder horder' hswap => ?_⟩
  · have hcal := cal_of_exec_calDecode (exec_eq_answer (.calDecode 1#2) s)
    rw [horder, decodeRecord_variantB] at hcal
    rw [hcal]
    have hfmt (f : Word16) : (f.extractLsb 15 13).toNat = f.toNat / 2 ^ 13 := by
      have := f.isLt
      rw [toNat_extractLsb]
      omega
    have hpar (f : Word16) : (f.extractLsb 12 11).toNat = f.toNat / 2 ^ 11 % 4 := toNat_extractLsb f 12 11
    have htemp (f : Word16) : (f.extractLsb 10 0).toNat = f.toNat % 2 ^ 11 := by rw [toNat_extractLsb, pow_zero, Nat.div_one]
    refine ⟨rfl, rfl, hfmt _, hfmt _, htemp _, htemp _, ?_, ?_, ?_⟩
    · exact (toNat_parityPair _ _).trans (by rw [hpar, hpar])
    · exact (toNat_parityPair _ _).trans (by rw [expectedParity_toNat, expectedParity_toNat]; rfl)
    · exact validB_iff.trans (and_congr_right fun _ => and_congr_right fun _ => parityPair_inj.symm)
  · refine ⟨_, _, exec_eq_answer _ s, exec_eq_answer _ s', ?_⟩
    rw [cal_of_exec_calDecode (exec_eq_answer _ s), cal_of_exec_calDecode (exec_eq_answer _ s'), horder, horder', hswap,
      decodeRecord_variantB, decodeRecord_variantB, decodeB_fptFirst]

/-! ### Classification without a mapping -/

/-- Without a mapping no temperature is reported (R222). -/
theorem tempChannel_ne_ok {cal : CalRecord} (h : cal.mappable = false) (ocrssi temp : Word16) :
    (tempChannel cal ocrssi temp).1 ≠ .ok := by
  have hnone : cal.mapping = Option.none := by simpa using h
  unfold tempChannel
  rw [hnone]
  split_ifs <;> simp

/-- With power and code in range, a record that is present and has no mapping is reported as invalid calibration (R222). -/
theorem tempChannel_eq_calInvalid {cal : CalRecord} (hpresent : cal.present = true) (h : cal.mappable = false)
    {ocrssi temp : Word16} (hmin : 5 ≤ ocrssi.toNat) (hmax : ocrssi.toNat ≤ 18) (hlow : 1000 ≤ temp.toNat)
    (hhigh : temp.toNat ≤ 3500) : tempChannel cal ocrssi temp = (.calInvalid, 0#32) := by
  have hnone : cal.mapping = Option.none := by simpa using h
  have hpower : ¬ ocrssi.toNat < ocrssiMin := Nat.not_lt.mpr hmin
  have hpower' : ¬ ocrssi.toNat > ocrssiMaxTemp := Nat.not_lt.mpr hmax
  have hcode : ¬ (temp.toNat < tempCodeMin ∨ temp.toNat > tempCodeMax) :=
    not_or.mpr ⟨Nat.not_lt.mpr hlow, Nat.not_lt.mpr hhigh⟩
  simp [tempChannel, hpower, hpower', hcode, hpresent, hnone]

/-- Settles O42: the record is `decodeReserved`, present and without a mapping. -/
theorem reservedVariantsGiveAnInvalidRecord : Obligations.ReservedVariantsGiveAnInvalidRecord := by
  intro variant s hvariant
  have hA : variant ≠ 0#2 := by rcases hvariant with rfl | rfl <;> decide
  have hB : variant ≠ 1#2 := by rcases hvariant with rfl | rfl <;> decide
  refine ⟨_, exec_eq_answer _ s, ?_⟩
  have hcal := cal_of_exec_calDecode (exec_eq_answer (.calDecode variant) s)
  rw [decodeRecord_reserved _ hA hB] at hcal
  have hunmapped : (answer (.calDecode variant) s).cal.mappable = false := by rw [hcal]; rfl
  have hpresent : (answer (.calDecode variant) s).cal.present = true := by rw [hcal]; rfl
  have hclassify (moist ocrssi temp : Word16) : ∃ u,
      exec (.classify moist ocrssi temp) (answer (.calDecode variant) s) = .next u ∧
      u.tempStatus ≠ .ok ∧ u.tempValue = 0#32 ∧
      (5 ≤ ocrssi.toNat → ocrssi.toNat ≤ 18 → 1000 ≤ temp.toNat → temp.toNat ≤ 3500 → u.tempStatus = .calInvalid) :=
    ⟨_, rfl, tempChannel_ne_ok hunmapped ocrssi temp, tempChannel_value _ _ _ (tempChannel_ne_ok hunmapped ocrssi temp),
      fun hmin hmax hlow hhigh => congrArg Prod.fst (tempChannel_eq_calInvalid hpresent hunmapped hmin hmax hlow hhigh)⟩
  refine ⟨hpresent, ?_, hunmapped, ?_, ?_, ?_, ?_, ?_, ?_, ?_, ?_, ?_, hclassify, rfl⟩
  all_goals rw [hcal]; rfl

/-! ### When a mapping exists -/

theorem mappableOf_iff {valid : Bool} {code1 code2 : Word16} :
    mappableOf valid code1 code2 = true ↔ valid = true ∧ code2 ≠ code1 := by
  simp [mappableOf]

/-- A decoded record has a mapping exactly when it is valid and its codes differ (R192). -/
theorem decodeRecord_mappable_iff (order : WordOrder) (variant : BitVec 2) (w : WordFile) :
    (decodeRecord order variant w).mappable = true ↔
      (decodeRecord order variant w).valid = true ∧ (decodeRecord order variant w).code2 ≠ (decodeRecord order variant w).code1 := by
  rw [decodeRecord, withMapping_mappable]
  exact mappableOf_iff

/-- Of every record CORE can hold (R35, R192). -/
theorem CalRecord.Constructed.mappable_iff {order : WordOrder} {r : CalRecord} (h : r.Constructed order) :
    r.mappable = true ↔ r.valid = true ∧ r.code2 ≠ r.code1 := by
  rcases h with rfl | ⟨variant, w, rfl⟩
  · simp [CalRecord.absent]
  · exact decodeRecord_mappable_iff order variant w

theorem CalRecord.Constructed.present_of_valid {order : WordOrder} {r : CalRecord} (h : r.Constructed order)
    (hvalid : r.valid = true) : r.present = true := by
  rcases h with rfl | ⟨variant, w, rfl⟩
  · cases hvalid
  · exact decodeRecord_present order variant w

/-- Settles O43: a constructed record is absent, with no mapping, or decoded, where `withMapping` decides. -/
theorem mappableExactlyWhenValidAndCodesDiffer : Obligations.MappableExactlyWhenValidAndCodesDiffer := by
  refine ⟨fun _ _ => CalRecord.Constructed.mappable_iff,
    fun variant s => ⟨_, exec_eq_answer _ s, .inr ⟨variant, s.calw, cal_of_exec_calDecode (exec_eq_answer _ s)⟩⟩, ?_⟩
  intro order moist ocrssi temp s hmade hvalid hcodes hmin hmax hlow hhigh
  have hunmapped : s.cal.mappable = false :=
    Bool.eq_false_iff.mpr fun h => (hmade.mappable_iff.mp h).2 hcodes
  have hchannel := tempChannel_eq_calInvalid (hmade.present_of_valid hvalid) hunmapped hmin hmax hlow hhigh
  exact ⟨_, rfl, congrArg Prod.fst hchannel, congrArg Prod.snd hchannel⟩

/-! ### The mapping registers -/

/-- The exact numerator of the offset, `OFF_NUM` before it is cut to 32 bits (R187, R191). -/
def offsetNum (bias : Int) (r : CalRecord) : Int :=
  ((r.temp1.toNat : Int) + tempScaleDen * bias) * signedDiff r.code2 r.code1 - signedDiff r.temp2 r.temp1 * r.code1.toNat

/-- The three registers hold, as signed numbers, the exact integers of the variant's formulas (R187, R191). -/
def Mapping.ExactFor (m : Mapping) (bias codeScaleDen : Int) (r : CalRecord) : Prop :=
  m.slopeNum.toInt = codeScaleDen * signedDiff r.temp2 r.temp1 ∧
  m.den.toInt = tempScaleDen * signedDiff r.code2 r.code1 ∧
  m.offNum.toInt = offsetNum bias r

theorem natAbs_signedDiff_le {w n : Nat} {a b : BitVec w} (ha : a.toNat ≤ n) (hb : b.toNat ≤ n) :
    (signedDiff b a).natAbs ≤ n := by
  unfold signedDiff
  omega

theorem signedDiff_ne_zero {w : Nat} {a b : BitVec w} (h : b ≠ a) : signedDiff b a ≠ 0 := by
  have hne : b.toNat ≠ a.toNat := fun e => h (BitVec.eq_of_toNat_eq e)
  unfold signedDiff
  omega

section Bounds

variable {r : CalRecord}

theorem natAbs_tempDiff_le (r : CalRecord) : (signedDiff r.temp2 r.temp1).natAbs ≤ 2047 :=
  natAbs_signedDiff_le (Nat.le_of_lt_succ r.temp1.isLt) (Nat.le_of_lt_succ r.temp2.isLt)

theorem natAbs_slope_le (codeScaleDen : Int) (r : CalRecord) :
    (codeScaleDen * signedDiff r.temp2 r.temp1).natAbs ≤ codeScaleDen.natAbs * 2047 := by
  rw [Int.natAbs_mul]
  exact Nat.mul_le_mul_left _ (natAbs_tempDiff_le r)

theorem natAbs_den_le {c : Nat} (hcode1 : r.code1.toNat ≤ c) (hcode2 : r.code2.toNat ≤ c) :
    (tempScaleDen * signedDiff r.code2 r.code1).natAbs ≤ 10 * c := by
  rw [Int.natAbs_mul]
  exact Nat.mul_le_mul_left _ (natAbs_signedDiff_le hcode1 hcode2)

/-- The offset's numerator is at most the biased temperature and the temperature difference, each times a code (R193). -/
theorem natAbs_offsetNum_le {bias : Int} {t c : Nat} (htemp : ((r.temp1.toNat : Int) + tempScaleDen * bias).natAbs ≤ t)
    (hcode1 : r.code1.toNat ≤ c) (hcode2 : r.code2.toNat ≤ c) : (offsetNum bias r).natAbs ≤ (t + 2047) * c := by
  have hfirst := Nat.mul_le_mul htemp (natAbs_signedDiff_le hcode1 hcode2)
  have hsecond := Nat.mul_le_mul (natAbs_tempDiff_le r) hcode1
  calc (offsetNum bias r).natAbs
      ≤ (((r.temp1.toNat : Int) + tempScaleDen * bias) * signedDiff r.code2 r.code1).natAbs +
          (signedDiff r.temp2 r.temp1 * r.code1.toNat).natAbs := Int.natAbs_sub_le _ _
    _ ≤ t * c + 2047 * c := by
        rw [Int.natAbs_mul, Int.natAbs_mul, Int.natAbs_natCast]
        exact Nat.add_le_add hfirst hsecond
    _ = (t + 2047) * c := (Nat.add_mul ..).symm

/-- A number below 2^31 in magnitude survives the cut to 32 bits (R33, R256). -/
theorem toInt_ofInt_of_natAbs_lt {x : Int} (h : x.natAbs < 2 ^ 31) : (BitVec.ofInt 32 x).toInt = x :=
  BitVec.toInt_ofInt_eq_self (by decide) (by omega) (by omega)

/-- With a bias and a code scale no larger than the variants', 32 bits lose nothing, whatever the record (R187, R191, R256). -/
theorem mappingWith_exact {bias codeScaleDen : Int} (hbias : bias.natAbs ≤ 80) (hscale : codeScaleDen.natAbs ≤ 16)
    (r : CalRecord) : (mappingWith bias codeScaleDen r).ExactFor bias codeScaleDen r := by
  have hcode1 : r.code1.toNat ≤ 65535 := Nat.le_of_lt_succ r.code1.isLt
  have hcode2 : r.code2.toNat ≤ 65535 := Nat.le_of_lt_succ r.code2.isLt
  have htemp : ((r.temp1.toNat : Int) + tempScaleDen * bias).natAbs ≤ 2847 := by
    have := r.temp1.isLt
    unfold tempScaleDen
    omega
  have hslope := natAbs_slope_le codeScaleDen r
  have hden := natAbs_den_le hcode1 hcode2
  have hoff := natAbs_offsetNum_le htemp hcode1 hcode2
  exact ⟨toInt_ofInt_of_natAbs_lt (by omega), toInt_ofInt_of_natAbs_lt (hden.trans_lt (by decide)),
    toInt_ofInt_of_natAbs_lt (hoff.trans_lt (by decide))⟩

end Bounds

/-! ### The mapping of a decoded record -/

/-- Variant A's codes have 12 bits (R109). -/
theorem decodeA_codes_le (w : WordFile) : (decodeA w).code1.toNat ≤ 4095 ∧ (decodeA w).code2.toNat ≤ 4095 := by
  have hcode (c : BitVec 12) : (c.setWidth 16).toNat ≤ 4095 := by
    rw [BitVec.toNat_setWidth_of_le (by decide)]
    exact Nat.le_of_lt_succ c.isLt
  exact ⟨hcode _, hcode _⟩

theorem mappingOf_decodeA (w : WordFile) : mappingOf (decodeA w) = mappingWith varaBias varaCodeScaleDen (decodeA w) := if_pos rfl

theorem mappingOf_decodeB (order : WordOrder) (w : WordFile) :
    mappingOf (decodeB order w) = mappingWith varbBias varbCodeScaleDen (decodeB order w) := by
  have hvariant : (decodeB order w).variant = 1#2 := by cases order <;> rfl
  exact if_neg (by rw [hvariant]; decide)

theorem mapping_withMapping {r : CalRecord} {m : Mapping} (h : (withMapping r).mapping = some m) : mappingOf r = m := by
  simp only [withMapping] at h
  split_ifs at h
  exact Option.some.inj h

section Mapped

variable {order : WordOrder} {r : CalRecord} {m : Mapping}

/-- A record with a mapping has two codes, and its mapping is that of Variant A, with codes of 12 bits, or that of Variant B
(R187, R191, R192). -/
theorem CalRecord.Constructed.mapping_cases (hmade : r.Constructed order) (hm : r.mapping = some m) :
    r.code2 ≠ r.code1 ∧
    (r.variant = 0#2 ∧ m.ExactFor varaBias varaCodeScaleDen r ∧ r.code1.toNat ≤ 4095 ∧ r.code2.toNat ≤ 4095 ∨
      r.variant = 1#2 ∧ m.ExactFor varbBias varbCodeScaleDen r) := by
  have hmappable : r.mappable = true := by rw [CalRecord.mappable, hm]; rfl
  obtain ⟨hvalid, hcodes⟩ := hmade.mappable_iff.mp hmappable
  refine ⟨hcodes, ?_⟩
  rcases hmade with rfl | ⟨variant, w, rfl⟩
  · cases hm
  · rcases variant_of_valid hvalid with rfl | rfl
    · rw [decodeRecord_variantA] at hm ⊢
      obtain rfl := (mappingOf_decodeA w).symm.trans (mapping_withMapping hm)
      exact .inl ⟨rfl, mappingWith_exact (by decide) (by decide) (decodeA w), decodeA_codes_le w⟩
    · refine .inr ⟨decodeRecord_variant .., ?_⟩
      rw [decodeRecord_variantB] at hm ⊢
      obtain rfl := (mappingOf_decodeB order w).symm.trans (mapping_withMapping hm)
      exact mappingWith_exact (by decide) (by decide) (decodeB order w)

/-- The ranges of the registers, from the bound of the biased temperature and that of the codes (R193). -/
theorem Mapping.ExactFor.ranges {bias codeScaleDen : Int} {t c : Nat} (h : m.ExactFor bias codeScaleDen r)
    (hcodes : r.code2 ≠ r.code1) (htemp : ((r.temp1.toNat : Int) + tempScaleDen * bias).natAbs ≤ t)
    (hcode1 : r.code1.toNat ≤ c) (hcode2 : r.code2.toNat ≤ c) :
    m.slopeNum.toInt.natAbs ≤ codeScaleDen.natAbs * 2047 ∧ 10 ≤ m.den.toInt.natAbs ∧ m.den.toInt.natAbs ≤ 10 * c ∧
      m.offNum.toInt.natAbs ≤ (t + 2047) * c := by
  obtain ⟨hslope, hden, hoff⟩ := h
  have hdc : 1 ≤ (signedDiff r.code2 r.code1).natAbs := Int.natAbs_pos.mpr (signedDiff_ne_zero hcodes)
  rw [hslope, hden, hoff]
  refine ⟨natAbs_slope_le codeScaleDen r, ?_, natAbs_den_le hcode1 hcode2, natAbs_offsetNum_le htemp hcode1 hcode2⟩
  rw [Int.natAbs_mul]
  exact Nat.mul_le_mul_left 10 hdc

/-- The slope times a reference code, scaled by the variant, plus the offset is the reference temperature in degrees (R194). -/
theorem Mapping.ExactFor.interpolates {bias codeScaleDen : Int} (h : m.ExactFor bias codeScaleDen r)
    (hscale : codeScaleDen ≠ 0) (hcodes : r.code2 ≠ r.code1) :
    (m.slopeNum.toInt / m.den.toInt : ℚ) * (r.code1.toNat / codeScaleDen) + m.offNum.toInt / m.den.toInt =
      r.temp1.toNat / 10 + bias ∧
    (m.slopeNum.toInt / m.den.toInt : ℚ) * (r.code2.toNat / codeScaleDen) + m.offNum.toInt / m.den.toInt =
      r.temp2.toNat / 10 + bias := by
  obtain ⟨hslope, hden, hoff⟩ := h
  have hdc : (r.code2.toNat : ℚ) - r.code1.toNat ≠ 0 := by
    have hne : r.code2.toNat ≠ r.code1.toNat := fun e => hcodes (BitVec.eq_of_toNat_eq e)
    exact sub_ne_zero.mpr (mod_cast hne)
  have hscale' : (codeScaleDen : ℚ) ≠ 0 := mod_cast hscale
  rw [hslope, hden, hoff]
  unfold offsetNum signedDiff tempScaleDen
  push_cast
  constructor
  · field_simp
    ring
  · field_simp
    ring

end Mapped

/-- A mapping that `CAL_DECODE` leaves (R183). -/
theorem mapping_cases_of_exec_calDecode {variant : BitVec 2} {s t : State} {m : Mapping}
    (ht : exec (.calDecode variant) s = .next t) (hm : t.cal.mapping = some m) :
    t.cal.code2 ≠ t.cal.code1 ∧
    (variant = 0#2 ∧ m.ExactFor varaBias varaCodeScaleDen t.cal ∧ t.cal.code1.toNat ≤ 4095 ∧ t.cal.code2.toNat ≤ 4095 ∨
      variant = 1#2 ∧ m.ExactFor varbBias varbCodeScaleDen t.cal) := by
  have hcal := cal_of_exec_calDecode ht
  have hmade : t.cal.Constructed s.build.varbWordOrder := .inr ⟨variant, s.calw, hcal⟩
  have hvariant : t.cal.variant = variant := by rw [hcal, decodeRecord_variant]
  simpa only [hvariant] using hmade.mapping_cases hm

/-- Settles O44: `mapping_cases_of_exec_calDecode` with the constants of the variants written out. -/
theorem mappingRegistersAreExact : Obligations.MappingRegistersAreExact := by
  intro variant s t m ht hm dc dt
  obtain ⟨-, ⟨hA, ⟨hslope, hden, hoff⟩, -⟩ | ⟨hB, hslope, hden, hoff⟩⟩ := mapping_cases_of_exec_calDecode ht hm
  · exact .inl ⟨hA, hslope.trans (Int.one_mul _), hden, hoff⟩
  · exact .inr ⟨hB, hslope, hden, hoff⟩

/-- Settles O45: with 12-bit codes and |TEMP1 − 800| ≤ 1247 for Variant A, 16-bit codes and |TEMP1 − 600| ≤ 1447 for Variant B. -/
theorem mappingRanges : Obligations.MappingRanges := by
  intro variant s t m ht hm
  have htemp1 := t.cal.temp1.isLt
  obtain ⟨hcodes, ⟨rfl, hexact, hcode1, hcode2⟩ | ⟨rfl, hexact⟩⟩ := mapping_cases_of_exec_calDecode ht hm
  · have htemp : ((t.cal.temp1.toNat : Int) + tempScaleDen * varaBias).natAbs ≤ 1247 := by
      unfold tempScaleDen varaBias
      omega
    exact ⟨fun _ => hexact.ranges hcodes htemp hcode1 hcode2, fun h => absurd h (by decide)⟩
  · have htemp : ((t.cal.temp1.toNat : Int) + tempScaleDen * varbBias).natAbs ≤ 1447 := by
      unfold tempScaleDen varbBias
      omega
    exact ⟨fun h => absurd h (by decide),
      fun _ => hexact.ranges hcodes htemp (Nat.le_of_lt_succ t.cal.code1.isLt) (Nat.le_of_lt_succ t.cal.code2.isLt)⟩

/-- Settles O46: `Mapping.ExactFor.interpolates` at the code scale and the bias of each variant. -/
theorem mappingInterpolatesTheReferencePairs : Obligations.MappingInterpolatesTheReferencePairs := by
  intro variant s t m ht hm slope offset
  obtain ⟨hcodes, ⟨rfl, hexact, -⟩ | ⟨rfl, hexact⟩⟩ := mapping_cases_of_exec_calDecode ht hm
  · refine ⟨fun _ => ?_, fun h => absurd h (by decide)⟩
    simpa [varaCodeScaleDen, varaBias, ← sub_eq_add_neg] using hexact.interpolates (by decide) hcodes
  · refine ⟨fun h => absurd h (by decide), fun _ => ?_⟩
    simpa [varbCodeScaleDen, varbBias, ← sub_eq_add_neg] using hexact.interpolates (by decide) hcodes

/-! ### A replaced word in Variant A -/

theorem wordsToBytes_append (vs ws : List Word16) : wordsToBytes (vs ++ ws) = wordsToBytes vs ++ wordsToBytes ws := by
  induction vs with
  | nil => rfl
  | cons v vs ih => rw [List.cons_append, wordsToBytes, ih, wordsToBytes]; rfl

/-- Two words that differ, fed to one register, leave it different (R162, R163). -/
theorem crc16Feed_word_injective (r : Word16) : Function.Injective fun w => crc16Feed r (wordsToBytes [w]) := by
  have hfeed (w : Word16) : crc16Feed r (wordsToBytes [w]) = crc16Shifts 16 (r ^^^ w) := by
    refine (crc16Update_crc16Update ..).trans ?_
    rw [extractLsb_append_extractLsb]
  intro w w' h
  simp only [hfeed] at h
  exact (BitVec.xor_right_inj r).mp (crc16Shifts_injective 16 h)

/-- Two messages that differ in one word at most and have one CRC are the same (R164). -/
theorem eq_of_crc16_eq (before after : List Word16) {v w : Word16}
    (h : crc16 (wordsToBytes (before ++ v :: after)) = crc16 (wordsToBytes (before ++ w :: after))) : v = w := by
  have hsplit (x : Word16) :
      wordsToBytes (before ++ x :: after) = wordsToBytes before ++ wordsToBytes [x] ++ wordsToBytes after := by
    rw [wordsToBytes_append, List.append_assoc]
    rfl
  rw [crc16_eq_iff, hsplit, hsplit, crc16Feed_append, crc16Feed_append _ _ (wordsToBytes after), crc16Feed_append, crc16Feed_append]
    at h
  exact crc16Feed_word_injective _ (crc16Feed_injective _ h)

/-- Where one word of a valid Variant A content is replaced, the content stays valid only if the word stays: word 0 is determined by
the others, and the CRC tells apart two values of each of those (R196). -/
theorem eq_of_decodeA_valid_set {w : WordFile} {i : Fin 4} {v : Word16} (h : (decodeA w).valid = true)
    (h' : (decodeA (w.set i.val v i.isLt)).valid = true) : v = w[i] := by
  obtain ⟨hcrc, -⟩ := (decodeA_valid_iff _).mp h
  obtain ⟨hcrc', -⟩ := (decodeA_valid_iff _).mp h'
  simp only [Vector.getElem_set] at hcrc'
  fin_cases i
  · exact hcrc'.trans hcrc.symm
  · exact eq_of_crc16_eq [] [w[2], w[3]] (hcrc'.symm.trans hcrc)
  · exact eq_of_crc16_eq [w[1]] [w[3]] (hcrc'.symm.trans hcrc)
  · exact eq_of_crc16_eq [w[1], w[2]] [] (hcrc'.symm.trans hcrc)

/-! ### The parity of a valid Variant B content -/

/-- The 1 bits of a concatenation are those of its parts (R12). -/
theorem popcount_append {m n : Nat} (a : BitVec m) (b : BitVec n) : popcount (a ++ b) = popcount a + popcount b := by
  have hlow : (List.range n).countP (a ++ b).getLsbD = popcount b :=
    List.countP_congr fun i hi => by simp [BitVec.getLsbD_append, List.mem_range.mp hi]
  have hhigh : (List.range m).countP ((a ++ b).getLsbD ∘ (n + ·)) = popcount a :=
    List.countP_congr fun i _ => by simp [BitVec.getLsbD_append]
  have hrange : List.range (m + n) = List.range n ++ (List.range m).map (n + ·) := by rw [Nat.add_comm, List.range_add]
  rw [popcount, hrange, List.countP_append, List.countP_map, hlow, hhigh, Nat.add_comm]

/-- Over XOR the parity of the 1 bits is additive. -/
theorem popcount_xor {n : Nat} (a b : BitVec n) : popcount (a ^^^ b) % 2 = (popcount a + popcount b) % 2 := by
  have hlist (l : List Nat) :
      l.countP (a ^^^ b).getLsbD % 2 = (l.countP a.getLsbD + l.countP b.getLsbD) % 2 := by
    induction l with
    | nil => rfl
    | cons i l ih =>
      simp only [List.countP_cons, BitVec.getLsbD_xor]
      cases a.getLsbD i <;> cases b.getLsbD i <;> simp <;> omega
  exact hlist _

/-- A single bit flipped changes the parity. -/
theorem popcount_flip (v : Word16) (j : Fin 16) : popcount (v ^^^ (1#16 <<< j.val)) % 2 = (popcount v + 1) % 2 := by
  have hbit : ∀ j : Fin 16, popcount (1#16 <<< j.val) = 1 := by decide
  rw [popcount_xor, hbit]

/-- The number of 1 bits in the four words. -/
def wordsPopcount (w : WordFile) : Nat := popcount w[0] + popcount w[1] + popcount w[2] + popcount w[3]

/-- The two parity bits of a group have the parity of the group's other bits (R189). -/
theorem popcount_expectedParity (fmt : BitVec 3) (temp : BitVec 11) (code : Word16) :
    popcount (expectedParity fmt temp code) % 2 = (popcount fmt + popcount temp + popcount code) % 2 := by
  have hbits : ∀ x < 2, ∀ y < 2, popcount (BitVec.ofNat 2 (x * 2 + y)) = x + y := by decide
  rw [expectedParity, hbits _ (Nat.mod_lt _ (by decide)) _ (Nat.mod_lt _ (by decide))]
  omega

/-- The 32 bits of a group that stores its expected parity have even parity (R188, R189). -/
theorem popcount_group {c f : Word16} (hpar : f.extractLsb 12 11 = expectedParity (f.extractLsb 15 13) (f.extractLsb 10 0) c) :
    (popcount c + popcount f) % 2 = 0 := by
  have hsplit : f = (f.extractLsb 15 13 ++ f.extractLsb 12 11) ++ f.extractLsb 10 0 := by
    refine BitVec.eq_of_toNat_eq ?_
    simp only [toNat_append, toNat_extractLsb]
    have := f.isLt
    omega
  have hcount : popcount f = popcount (f.extractLsb 15 13) + popcount (f.extractLsb 12 11) + popcount (f.extractLsb 10 0) := by
    conv_lhs => rw [hsplit]
    rw [popcount_append, popcount_append]
  have hexp := popcount_expectedParity (f.extractLsb 15 13) (f.extractLsb 10 0) c
  rw [← hpar] at hexp
  omega

/-- The 64 bits of a content that decodes to a valid Variant B record have even parity, under either word order. -/
theorem wordsPopcount_of_decodeB_valid {order : WordOrder} {w : WordFile} (h : (decodeB order w).valid = true) :
    wordsPopcount w % 2 = 0 := by
  unfold wordsPopcount
  cases order
  all_goals
    obtain ⟨-, -, hpar1, hpar2⟩ := validB_iff.mp h
    have hgroup1 := popcount_group hpar1
    have hgroup2 := popcount_group hpar2
    omega

/-- A flipped bit of the four words changes their parity (R195). -/
theorem wordsPopcount_flipWordBit (w : WordFile) (i : Fin 4) (j : Fin 16) :
    wordsPopcount (flipWordBit w i j) % 2 = (wordsPopcount w + 1) % 2 := by
  have hflip := popcount_flip w[i] j
  fin_cases i
  all_goals
    simp [wordsPopcount, flipWordBit] at hflip ⊢
    omega

/-- Settles O47: Variant A's CRC shows the flipped word, Variant B's even parity the flipped bit. -/
theorem anyFlippedBitInvalidatesTheRecord : Obligations.AnyFlippedBitInvalidatesTheRecord := by
  intro variant s t t' i j ht hvalid ht'
  rw [cal_of_exec_calDecode ht] at hvalid
  rw [cal_of_exec_calDecode ht', ← Bool.not_eq_true]
  intro hvalid'
  dsimp only at hvalid'
  rcases variant_of_valid hvalid with rfl | rfl
  · rw [decodeRecord_variantA, withMapping_valid] at hvalid hvalid'
    have hflip : s.calw[i] ^^^ (1#16 <<< j.val) = s.calw[i] := by
      rw [flipWordBit] at hvalid'
      exact eq_of_decodeA_valid_set hvalid hvalid'
    have hparity := popcount_flip s.calw[i] j
    rw [hflip] at hparity
    omega
  · rw [decodeRecord_variantB, withMapping_valid] at hvalid hvalid'
    have heven := wordsPopcount_of_decodeB_valid hvalid
    have heven' := wordsPopcount_of_decodeB_valid hvalid'
    have hflip := wordsPopcount_flipWordBit s.calw i j
    omega

end Sys2Proof.Machine
end

/-! # Proofs of the family 45_status_thresholder

The moisture and the backport channel are one power check with two upper bounds (`powerChannel`). `Round100` puts the sign of the
quotient on `nearestQuot` of the magnitudes, and Euclidean division bounds that on both sides (`nearestQuot_bounds`). The range of the
temperature comes from the numerator written as interpolation from the first reference pair (`Mapping.ExactFor.mappedNum_eq`): it is
at most a constant times the difference of the codes, a tenth of the denominator. -/

section

namespace Sys2Proof.Machine

open Sys2Proof.Config

/-! ### The power check of the moisture and the backport channel -/

/-- A value passed on while the power lies between `OCRSSI_MIN` and an upper bound (R221, R228). -/
def powerChannel (max : Nat) (value ocrssi : Word16) : Status × Word16 :=
  if ocrssi.toNat < ocrssiMin then (.powerLow, 0#16)
  else if ocrssi.toNat > max then (.powerHigh, 0#16)
  else (.ok, value)

theorem moistChannel_eq (moist ocrssi : Word16) : moistChannel moist ocrssi = powerChannel ocrssiMaxMoist moist ocrssi := rfl

theorem backChannel_eq (ocrssi code : Word16) : backChannel ocrssi code = powerChannel ocrssiMaxTemp code ocrssi := rfl

/-- The table of R221 and R228: three cases that exclude each other. -/
theorem powerChannel_table {max : Nat} (hmax : ocrssiMin ≤ max) (value ocrssi : Word16) :
    (ocrssi.toNat < ocrssiMin →
      (powerChannel max value ocrssi).1 = .powerLow ∧ (powerChannel max value ocrssi).2 = 0#16) ∧
    (ocrssi.toNat > max → (powerChannel max value ocrssi).1 = .powerHigh ∧ (powerChannel max value ocrssi).2 = 0#16) ∧
    (ocrssiMin ≤ ocrssi.toNat ∧ ocrssi.toNat ≤ max → (powerChannel max value ocrssi).2 = value) ∧
    ((powerChannel max value ocrssi).1 = .ok ↔ ocrssiMin ≤ ocrssi.toNat ∧ ocrssi.toNat ≤ max) := by
  by_cases hlow : ocrssi.toNat < ocrssiMin
  · have hnot : ¬ max < ocrssi.toNat := by omega
    simp [powerChannel, hlow, hnot]
  · by_cases hhigh : ocrssi.toNat > max
    · simp [powerChannel, hlow, hhigh]
    · simp [powerChannel, hlow, hhigh, Nat.not_lt.mp hlow, Nat.not_lt.mp hhigh]

/-- Settles O48: the moisture channel is `powerChannel` up to 21, and `CLASSIFY` writes the four registers of a reading. -/
theorem classifyMoistureChannel : Obligations.ClassifyMoistureChannel := by
  intro moist ocrssi temp s
  obtain ⟨hlow, hhigh, hvalue, hok⟩ := powerChannel_table (max := ocrssiMaxMoist) (by decide) moist ocrssi
  exact ⟨_, exec_eq_answer _ s, hlow, hhigh, hvalue, hok, rfl⟩

/-! ### The two backport slots -/

theorem getElem_set_slot {α : Type} (v : Vector α 2) (n : BitVec 1) (x : α) (k : Fin 2) :
    (v.set n.toNat x n.isLt)[k] = if k.val = n.toNat then x else v[k] := by
  rw [Fin.getElem_fin, Vector.getElem_set]
  simp only [eq_comm (a := n.toNat), Fin.getElem_fin]

theorem answer_clsBack_backStatus (n : BitVec 1) (ocrssi code : Word16) (s : State) (k : Fin 2) :
    (answer (.clsBack n ocrssi code) s).backStatus[k] =
      if k.val = n.toNat then (backChannel ocrssi code).1 else s.backStatus[k] :=
  getElem_set_slot ..

theorem answer_clsBack_backValue (n : BitVec 1) (ocrssi code : Word16) (s : State) (k : Fin 2) :
    (answer (.clsBack n ocrssi code) s).backValue[k] =
      if k.val = n.toNat then (backChannel ocrssi code).2 else s.backValue[k] :=
  getElem_set_slot ..

/-- Settles O52: slot `n` holds the backport channel, which is `powerChannel` up to 18. -/
theorem clsBackWritesOneSlot : Obligations.ClsBackWritesOneSlot := by
  intro n ocrssi code s
  refine ⟨_, exec_eq_answer _ s, fun k hk => ?_, fun k hk => ?_, rfl⟩
  · rw [answer_clsBack_backStatus, answer_clsBack_backValue, if_pos hk, if_pos hk]
    exact powerChannel_table (max := ocrssiMaxTemp) (by decide) code ocrssi
  · rw [answer_clsBack_backStatus, answer_clsBack_backValue, if_neg hk, if_neg hk]
    exact ⟨rfl, rfl⟩

/-! ### Purity -/

/-- `CLASSIFY` keeps the record it reads, so a second one writes the same values (R231). -/
theorem answer_classify_answer (moist ocrssi temp : Word16) (s : State) :
    answer (.classify moist ocrssi temp) (answer (.classify moist ocrssi temp) s) = answer (.classify moist ocrssi temp) s := rfl

/-- A slot set twice to one value is set once (R231). -/
theorem answer_clsBack_answer (n : BitVec 1) (ocrssi code : Word16) (s : State) :
    answer (.clsBack n ocrssi code) (answer (.clsBack n ocrssi code) s) = answer (.clsBack n ocrssi code) s := by
  simp [answer, firstError, effect, respondOk]

/-- Settles O53: the channels are functions of the operands and the record, and both commands are idempotent. -/
theorem classificationIsPure : Obligations.ClassificationIsPure := by
  refine ⟨fun moist ocrssi temp s t s' t' hcal ht ht' => ?_, fun n ocrssi code s t s' t' ht ht' => ?_⟩
  · obtain rfl := exec_eq_next.mp ht
    obtain rfl := exec_eq_next.mp ht'
    refine ⟨?_, exec_eq_next.mpr (answer_classify_answer moist ocrssi temp s)⟩
    simp [SameGroup, answer, firstError, effect, hcal]
  · obtain rfl := exec_eq_next.mp ht
    obtain rfl := exec_eq_next.mp ht'
    refine ⟨fun k hk => ?_, exec_eq_next.mpr (answer_clsBack_answer n ocrssi code s)⟩
    simp only [answer_clsBack_backStatus, answer_clsBack_backValue, if_pos hk, and_self]

/-! ### The temperature channel -/

/-- The status is the first of the six branches that matches; a valid record without a mapping is invalid calibration (R222). -/
theorem tempChannel_status (cal : CalRecord) (ocrssi temp : Word16) :
    (tempChannel cal ocrssi temp).1 =
      if ocrssi.toNat < ocrssiMin then .powerLow
      else if ocrssi.toNat > ocrssiMaxTemp then .powerHigh
      else if temp.toNat < tempCodeMin ∨ temp.toNat > tempCodeMax then .badRead
      else if cal.present = false then .calAbsent
      else if cal.valid = false ∨ cal.mappable = false then .calInvalid
      else .ok := by
  unfold tempChannel CalRecord.mappable
  simp only [apply_ite Prod.fst]
  cases cal.mapping with
  | none => simp
  | some m => simp

/-- The status is `ST_OK` exactly when power and code are in range and a mapping exists: by R28 the record is then present and valid
(R222). -/
theorem tempChannel_ok_iff {cal : CalRecord} (h : cal.Consistent) (ocrssi temp : Word16) :
    (tempChannel cal ocrssi temp).1 = .ok ↔
      (ocrssiMin ≤ ocrssi.toNat ∧ ocrssi.toNat ≤ ocrssiMaxTemp) ∧ (tempCodeMin ≤ temp.toNat ∧ temp.toNat ≤ tempCodeMax) ∧
        cal.mappable = true := by
  obtain ⟨hvalid, hpresent⟩ := h
  rw [tempChannel_status]
  split_ifs with hlow hhigh hcode habsent hinvalid
  · exact iff_of_false (by decide) (by omega)
  · exact iff_of_false (by decide) (by omega)
  · exact iff_of_false (by decide) (by omega)
  · refine iff_of_false (by decide) fun ⟨_, _, hm⟩ => ?_
    rw [hpresent (hvalid hm)] at habsent
    cases habsent
  · refine iff_of_false (by decide) fun ⟨_, _, hm⟩ => ?_
    rw [hvalid hm, hm] at hinvalid
    simp at hinvalid
  · have hm : cal.mappable = true := Bool.of_not_eq_false (not_or.mp hinvalid).2
    exact iff_of_true rfl ⟨by omega, by omega, hm⟩

/-- On the `ST_OK` branch the value is the mapped temperature (R222, R223). -/
theorem tempChannel_value_of_ok {cal : CalRecord} {m : Mapping} (hm : cal.mapping = some m) {ocrssi temp : Word16}
    (hok : (tempChannel cal ocrssi temp).1 = .ok) : (tempChannel cal ocrssi temp).2 = temperatureOf m temp := by
  revert hok
  unfold tempChannel
  rw [hm]
  split_ifs <;> simp

/-- `SLOPE_NUM · temp + OFF_NUM`, the numerator of the temperature of a code (R220). -/
def mappedNum (m : Mapping) (temp : Word16) : Int := m.slopeNum.toInt * temp.toNat + m.offNum.toInt

theorem temperatureOf_eq {m : Mapping} (h : m.den ≠ 0#32) (temp : Word16) :
    temperatureOf m temp = BitVec.ofInt 32 (round100 (mappedNum m temp) m.den.toInt) := if_neg h

/-- Settles O49: the status by `tempChannel_status` and `tempChannel_ok_iff`, the value on and off the `ST_OK` branch. -/
theorem classifyTemperaturePrecedence : Obligations.ClassifyTemperaturePrecedence := fun _ ocrssi temp s hcons =>
  ⟨_, exec_eq_answer _ s, tempChannel_status s.cal ocrssi temp, tempChannel_ok_iff hcons ocrssi temp,
    tempChannel_value s.cal ocrssi temp, fun _ hm hden hok => (tempChannel_value_of_ok hm hok).trans (temperatureOf_eq hden temp)⟩

/-! ### Rounding -/

/-- The integer nearest to `a / d`, the larger of two equally near: the magnitude of `Round100` (R223). -/
def nearestQuot (a d : Nat) : Nat := (2 * a + d) / (2 * d)

/-- `2a` lies between `(2q − 1)·d` and `(2q + 1)·d`, below the upper end. -/
theorem nearestQuot_bounds (a : Nat) {d : Nat} (hd : 0 < d) :
    2 * (nearestQuot a d * d) ≤ 2 * a + d ∧ 2 * a < 2 * (nearestQuot a d * d) + d := by
  have hdiv := Nat.div_add_mod (2 * a + d) (2 * d)
  have hmod := Nat.mod_lt (2 * a + d) (show 0 < 2 * d by omega)
  have hq : 2 * d * ((2 * a + d) / (2 * d)) = 2 * (nearestQuot a d * d) := by unfold nearestQuot; ring
  omega

/-- `Round100` is `nearestQuot` of the magnitudes, negative where the quotient is (R223). -/
theorem round100_eq (num den : Int) :
    round100 num den =
      if 0 ≤ (if den < 0 then -(100 * num) else 100 * num) then (nearestQuot (100 * num).natAbs den.natAbs : Int)
      else -nearestQuot (100 * num).natAbs den.natAbs := by
  have habs : (if den < 0 then -(100 * num) else 100 * num).natAbs = (100 * num).natAbs := by split_ifs <;> omega
  rw [nearestQuot, ← habs]
  rfl

theorem natAbs_round100 (num den : Int) : (round100 num den).natAbs = nearestQuot (100 * num).natAbs den.natAbs := by
  rw [round100_eq]
  split_ifs <;> omega

/-- `Round100` times the denominator lies on the side of 0 that `100·num` lies on (R223). -/
theorem round100_mul_den (num den : Int) :
    (100 * num = (100 * num).natAbs ∧
      round100 num den * den = (nearestQuot (100 * num).natAbs den.natAbs * den.natAbs : Nat)) ∨
    (100 * num = -(100 * num).natAbs ∧
      round100 num den * den = -(nearestQuot (100 * num).natAbs den.natAbs * den.natAbs : Nat)) := by
  rw [round100_eq, Nat.cast_mul]
  generalize nearestQuot (100 * num).natAbs den.natAbs = q
  by_cases hden : den < 0
  · have hd : den = -den.natAbs := by omega
    rw [if_pos hden]
    split_ifs with hsign
    · exact .inr ⟨by omega, by conv_lhs => rw [hd, mul_neg]⟩
    · exact .inl ⟨by omega, by conv_lhs => rw [hd, neg_mul_neg]⟩
  · have hd : den = den.natAbs := by omega
    rw [if_neg hden]
    split_ifs with hsign
    · exact .inl ⟨by omega, by conv_lhs => rw [hd]⟩
    · exact .inr ⟨by omega, by conv_lhs => rw [hd, neg_mul]⟩

/-- Settles O50: both magnitudes on one side of 0, where `nearestQuot_bounds` is the claim. -/
theorem roundingIsToNearestTiesAway : Obligations.RoundingIsToNearestTiesAway := by
  intro num den hden
  have hbounds := nearestQuot_bounds (100 * num).natAbs (Int.natAbs_pos.mpr hden)
  simp only [Int.abs_eq_natAbs]
  rcases round100_mul_den num den with ⟨hnum, hround⟩ | ⟨hnum, hround⟩
  · rw [hround]; omega
  · rw [hround]; omega

/-- A quotient of at most `b` in magnitude is rounded to at most `b`. -/
theorem natAbs_round100_le {num den : Int} {b : Nat} (hden : den ≠ 0) (h : (100 * num).natAbs ≤ b * den.natAbs) :
    (round100 num den).natAbs ≤ b := by
  have hd : 0 < den.natAbs := Int.natAbs_pos.mpr hden
  rw [natAbs_round100, nearestQuot, ← Nat.lt_succ_iff, Nat.div_lt_iff_lt_mul (by omega)]
  calc 2 * (100 * num).natAbs + den.natAbs
      < 2 * (b * den.natAbs) + 2 * den.natAbs := by omega
    _ = (b + 1) * (2 * den.natAbs) := by ring

/-! ### The range of the temperature -/

theorem CalRecord.Constructed.consistent {order : WordOrder} {r : CalRecord} (h : r.Constructed order) : r.Consistent := by
  rcases h with rfl | ⟨variant, w, rfl⟩
  · exact absent_consistent
  · exact decodeRecord_consistent order variant w

section Range

variable {m : Mapping} {bias codeScaleDen : Int} {r : CalRecord}

/-- The numerator as interpolation from the first reference pair (R187, R191, R220). -/
theorem Mapping.ExactFor.mappedNum_eq (h : m.ExactFor bias codeScaleDen r) (temp : Word16) :
    mappedNum m temp = signedDiff r.temp2 r.temp1 * (codeScaleDen * temp.toNat - r.code1.toNat) +
      ((r.temp1.toNat : Int) + tempScaleDen * bias) * signedDiff r.code2 r.code1 := by
  obtain ⟨hslope, -, hoff⟩ := h
  rw [mappedNum, hslope, hoff, offsetNum]
  ring

theorem Mapping.ExactFor.natAbs_den (h : m.ExactFor bias codeScaleDen r) :
    m.den.toInt.natAbs = 10 * (signedDiff r.code2 r.code1).natAbs := by
  obtain ⟨-, hden, -⟩ := h
  rw [hden, Int.natAbs_mul]
  rfl

theorem natAbs_codeDiff_pos (hcodes : r.code2 ≠ r.code1) : 0 < (signedDiff r.code2 r.code1).natAbs :=
  Int.natAbs_pos.mpr (signedDiff_ne_zero hcodes)

theorem Mapping.ExactFor.den_ne_zero (h : m.ExactFor bias codeScaleDen r) (hcodes : r.code2 ≠ r.code1) : m.den.toInt ≠ 0 := by
  have hden := h.natAbs_den
  have hdc := natAbs_codeDiff_pos hcodes
  omega

/-- With the code at most `k` from the first reference code and the first reference temperature at most `t`, both scaled, the
numerator is at most `2047·k + t` times the difference of the codes. -/
theorem Mapping.ExactFor.natAbs_mappedNum_le (h : m.ExactFor bias codeScaleDen r) (hcodes : r.code2 ≠ r.code1) {temp : Word16}
    {k t : Nat} (hcode : (codeScaleDen * temp.toNat - r.code1.toNat).natAbs ≤ k)
    (htemp : ((r.temp1.toNat : Int) + tempScaleDen * bias).natAbs ≤ t) :
    (mappedNum m temp).natAbs ≤ (2047 * k + t) * (signedDiff r.code2 r.code1).natAbs := by
  rw [h.mappedNum_eq, Nat.add_mul]
  refine (Int.natAbs_add_le _ _).trans (Nat.add_le_add ?_ ?_)
  · rw [Int.natAbs_mul]
    exact (Nat.mul_le_mul (natAbs_tempDiff_le r) hcode).trans (Nat.le_mul_of_pos_right _ (natAbs_codeDiff_pos hcodes))
  · rw [Int.natAbs_mul]
    exact Nat.mul_le_mul_right _ htemp

/-- The rounded temperature is at most ten times that, in hundredths of a degree (R223). -/
theorem Mapping.ExactFor.natAbs_temperature_le (h : m.ExactFor bias codeScaleDen r) (hcodes : r.code2 ≠ r.code1) {temp : Word16}
    {k t : Nat} (hcode : (codeScaleDen * temp.toNat - r.code1.toNat).natAbs ≤ k)
    (htemp : ((r.temp1.toNat : Int) + tempScaleDen * bias).natAbs ≤ t) :
    (round100 (mappedNum m temp) m.den.toInt).natAbs ≤ 10 * (2047 * k + t) := by
  refine natAbs_round100_le (h.den_ne_zero hcodes) ?_
  rw [h.natAbs_den, Int.natAbs_mul]
  calc 100 * (mappedNum m temp).natAbs
      ≤ 100 * ((2047 * k + t) * (signedDiff r.code2 r.code1).natAbs) :=
        Nat.mul_le_mul_left _ (h.natAbs_mappedNum_le hcodes hcode htemp)
    _ = 10 * (2047 * k + t) * (10 * (signedDiff r.code2 r.code1).natAbs) := by ring

end Range

/-- For a record CORE can hold and a code in range, the rounded temperature is within the variant's bound (R193, R223). -/
theorem CalRecord.Constructed.natAbs_temperature_le {order : WordOrder} {r : CalRecord} {m : Mapping} (hmade : r.Constructed order)
    (hm : r.mapping = some m) {temp : Word16} (hlow : tempCodeMin ≤ temp.toNat) (hhigh : temp.toNat ≤ tempCodeMax) :
    m.den.toInt ≠ 0 ∧
    (r.variant = 0#2 ∧ (round100 (mappedNum m temp) m.den.toInt).natAbs ≤ 71657500 ∨
      r.variant = 1#2 ∧ (round100 (mappedNum m temp) m.den.toInt).natAbs ≤ 1146335000) := by
  unfold tempCodeMin at hlow
  unfold tempCodeMax at hhigh
  have htemp1 := r.temp1.isLt
  obtain ⟨hcodes, ⟨hvariant, hexact, hcode1, -⟩ | ⟨hvariant, hexact⟩⟩ := hmade.mapping_cases hm
  · have hcode : (varaCodeScaleDen * temp.toNat - r.code1.toNat).natAbs ≤ 3500 := by unfold varaCodeScaleDen; omega
    have htemp : ((r.temp1.toNat : Int) + tempScaleDen * varaBias).natAbs ≤ 1247 := by unfold tempScaleDen varaBias; omega
    exact ⟨hexact.den_ne_zero hcodes, .inl ⟨hvariant, (hexact.natAbs_temperature_le hcodes hcode htemp).trans (by decide)⟩⟩
  · have hcode1 := r.code1.isLt
    have hcode : (varbCodeScaleDen * temp.toNat - r.code1.toNat).natAbs ≤ 56000 := by unfold varbCodeScaleDen; omega
    have htemp : ((r.temp1.toNat : Int) + tempScaleDen * varbBias).natAbs ≤ 1447 := by unfold tempScaleDen varbBias; omega
    exact ⟨hexact.den_ne_zero hcodes, .inr ⟨hvariant, (hexact.natAbs_temperature_le hcodes hcode htemp).trans (by decide)⟩⟩

/-- Settles O51: the record is consistent, so the status is `ST_OK`, and both bounds are below 2^31, so 32 bits lose nothing. -/
theorem temperatureValueIsExact : Obligations.TemperatureValueIsExact := by
  intro order moist ocrssi temp s m hmade hm hmin hmax hlow hhigh
  have hmappable : s.cal.mappable = true := by rw [CalRecord.mappable, hm]; rfl
  have hok := (tempChannel_ok_iff hmade.consistent ocrssi temp).mpr ⟨⟨hmin, hmax⟩, ⟨hlow, hhigh⟩, hmappable⟩
  obtain ⟨hden, hbound⟩ := hmade.natAbs_temperature_le hm hlow hhigh
  have hden32 : m.den ≠ 0#32 := fun h => hden (by rw [h]; rfl)
  have hexact : (tempChannel s.cal ocrssi temp).2.toInt = round100 (mappedNum m temp) m.den.toInt := by
    rw [tempChannel_value_of_ok hm hok, temperatureOf_eq hden32]
    exact toInt_ofInt_of_natAbs_lt (by omega)
  rw [← hexact] at hbound
  refine ⟨_, exec_eq_answer _ s, hok, hexact, ?_⟩
  rcases hbound with ⟨hA, hle⟩ | ⟨hB, hle⟩
  · exact ⟨fun _ => hle, fun hB => absurd (hA.symm.trans hB) (by decide)⟩
  · exact ⟨fun hA => absurd (hA.symm.trans hB) (by decide), fun _ => hle⟩

end Sys2Proof.Machine
end

/-! # Proofs of the family 46_control

The two resets answer the same `resetRegisters`: `RESET` because `LAST_RESP` is `OK` after a reset anyway
(`respondOk_resetRegisters`), the reset input because it does nothing else (`step_reset`). -/

section

namespace Sys2Proof

/-- Opcode 0x00 selects the format of `NOP` (R93). -/
theorem decode_of_opcode_nop {w : CmdWord} (hop : opcodeOf w = 0x00#8) : decode w = ifReservedZero w (w.extractLsb 55 0) .nop := by
  rw [decode, hop]
  rfl

end Sys2Proof

namespace Sys2Proof.Machine

/-! ### The next state of each command -/

theorem exec_nop (s : State) : exec .nop s = .next (respondOk s) := rfl

theorem exec_clrerr (s : State) : exec .clrerr s = .next (respondOk (clearErrors s)) := rfl

/-- The response of `RESET` is the reset value of `LAST_RESP` (R45, R251). -/
@[simp] theorem respondOk_resetRegisters (s : State) : respondOk (resetRegisters s) = resetRegisters s := rfl

theorem exec_reset (s : State) : exec .reset s = .next (resetRegisters s) :=
  congrArg Host.Outcome.next (respondOk_resetRegisters s)

/-! ### The reset input -/

/-- A pending reset input: the step takes it from the queue and resets the registers (R290). -/
theorem step_reset {s : State} {rest : List HostInput} (hpending : s.port.pending = .reset :: rest) :
    step s = .next (resetRegisters (withPending rest s)) := by
  unfold step
  rw [takeInput_eq_some hpending]
  rfl

/-- After a reset each row of R20's table has its reset value, whatever the state before (R45). -/
theorem sameGroup_resetRegisters (s : State) (g : RegGroup) : SameGroup (State.resetOf s.build) (resetRegisters s) g := by
  cases g <;> simp [SameGroup]

/-! ### The obligations -/

/-- Settles O14: the word is the command's encoding, any other word of the opcode has a reserved bit set, and the next state is
`respondOk` of the state before. -/
theorem nopOnlyAnswersOk : Obligations.NopOnlyAnswersOk := by
  have hword (w : CmdWord) : decode w = .instr .nop ↔ w = 0x0000000000000000 := decode_eq_instr_iff
  refine ⟨hword, fun w hop hne => ?_, exec_nop⟩
  have hdecode := decode_of_opcode_nop hop
  rw [hdecode]
  exact ifReservedZero_illegal fun h => hne ((hword w).mp (hdecode.trans h))

/-- Settles O15: the word is the command's encoding, and both resets answer a `resetRegisters`, of the state before or of that
state with the input taken from the queue, which has the same build. -/
theorem bothResetsGiveTheResetState : Obligations.BothResetsGiveTheResetState := by
  refine ⟨fun w => decode_eq_instr_iff, fun s => ?_, fun s rest hpending => ?_⟩
  · exact ⟨resetRegisters s, exec_reset s, resetRegisters_build s, sameGroup_resetRegisters s⟩
  · exact ⟨_, step_reset hpending, resetRegisters_build _, sameGroup_resetRegisters (withPending rest s)⟩

/-- Settles O16: the word is the command's encoding, and the next state is `respondOk` of `clearErrors`. -/
theorem clrerrClearsOnlyTheErrorBits : Obligations.ClrerrClearsOnlyTheErrorBits :=
  ⟨fun _ => decode_eq_instr_iff, exec_clrerr⟩

end Sys2Proof.Machine
end

/-! # Proofs of the family 60_exceptions

A word that matches no row of the opcode table decodes to none (`illegal_of_no_row`), and its step is `illegalCommand`
(`step_command_of_illegal`). The response of a command is the outcome of its checks (`answer_lastResp`), which `firstError` lists in
R264's order. -/

section

namespace Sys2Proof

/-! ### Words that spell no command -/

/-- No two rows of the opcode table share an opcode (R93). -/
theorem row_eq_of_opcodeOf_eq : ∀ r ∈ opcodeTable, ∀ r' ∈ opcodeTable, opcodeOf r.pattern = opcodeOf r'.pattern → r = r' := by
  decide

/-- A word that matches no row of the opcode table is an illegal command (R94). -/
theorem illegal_of_no_row {w : CmdWord} (hnone : ∀ r ∈ opcodeTable, ¬ r.matches w) : ∃ why, decode w = .illegal why := by
  cases hdecode : decode w with
  | illegal why => exact ⟨why, rfl⟩
  | instr i =>
    obtain rfl := decodedWordIsTheEncoding w i hdecode
    exact absurd (encode_matches_row i) (hnone i.row i.row_mem)

/-- A word with the opcode of a row it does not match matches no row (R93, R95): a row it matched would share that opcode. -/
theorem no_row_of_reservedBit {w : CmdWord} {r : OpcodeRow} (hr : r ∈ opcodeTable) (hop : w &&& 0xFF00000000000000 = r.pattern)
    (hmatch : ¬ r.matches w) : ∀ r' ∈ opcodeTable, ¬ r'.matches w := by
  intro r' hr' hmatch'
  have hmask : opcodeOf 0xFF00000000000000 = BitVec.allOnes 8 := by decide
  have hopcode : opcodeOf w = opcodeOf r.pattern :=
    extractLsb_of_matches (r := ⟨r.mnemonic, r.pattern, 0xFF00000000000000⟩) hop hmask
  obtain rfl := row_eq_of_opcodeOf_eq r hr r' hr' (hopcode.symm.trans (opcodeOf_of_matches hr' hmatch'))
  exact hmatch hmatch'

end Sys2Proof

namespace Sys2Proof.Machine

/-- A pending word that spells no command: the step takes it from the queue and reports an illegal command (R94, R261). -/
theorem step_command_of_illegal {s : State} {w : CmdWord} {rest : List HostInput} {why : Illegal}
    (hpending : s.port.pending = .command w :: rest) (hdecode : decode w = .illegal why) :
    step s = .next (illegalCommand (withPending rest s)) := by
  unfold step
  rw [takeInput_eq_some hpending]
  simp [hdecode]

/-- Settles O6: the word decodes to no command, and `illegalCommand` writes the two reporting registers alone. -/
theorem illegalWordOnlyReports : Obligations.IllegalWordOnlyReports := by
  intro s w rest hpending hnone
  obtain ⟨why, hdecode⟩ := illegal_of_no_row hnone
  exact ⟨_, step_command_of_illegal hpending hdecode, rfl⟩

/-! ### Runs -/

/-- No step faults and none is refused, from any state (R271). -/
theorem step_isNext (s : State) : ∃ t, step s = .next t := by
  rcases step_cases s with ⟨-, hs⟩ | ⟨r, rest, -, hs⟩ | ⟨rest, -, hs⟩ | ⟨w, rest, i, -, -, -, hs⟩ | ⟨w, rest, -, -, hs⟩
  case inr.inr.inr.inl => exact ⟨_, hs.trans (exec_eq_answer i _)⟩
  all_goals exact ⟨_, hs⟩

/-- A run whose first step answers a state goes on from that state. -/
theorem run_succ {M : Host.Core} {s t : M.State} (hstep : M.step s = .next t) (n : Nat) : M.run (n + 1) s = M.run n t := by
  rw [Host.Core.run, hstep]

/-- Settles O7, by induction on the number of steps: each step answers a state, by `step_isNext`. -/
theorem everyRunGoesOn : Obligations.EveryRunGoesOn := by
  intro s n
  induction n generalizing s with
  | zero => exact ⟨s, rfl⟩
  | succ n ih =>
    obtain ⟨t, hstep⟩ := step_isNext s
    obtain ⟨u, hrun⟩ := ih t
    exact ⟨u, (run_succ (M := core) hstep n).trans hrun⟩

/-! ### What a command reports -/

/-- The effect of a command leaves the error bits alone, except for the two commands that clear them (R252, R263). -/
theorem effect_errSticky {i : Instr} (hclrerr : i ≠ .clrerr) (hreset : i ≠ .reset) (s : State) :
    (effect i s).errSticky = s.errSticky := by
  cases i
  case clrerr => exact absurd rfl hclrerr
  case reset => exact absurd rfl hreset
  case bbEbv | selBuild => simp [effect]
  all_goals rfl

theorem effect_errSticky_of_clears {i : Instr} (h : i = .clrerr ∨ i = .reset) (s : State) : (effect i s).errSticky = 0#8 := by
  obtain rfl | rfl := h
  · exact clearErrors_errSticky s
  · exact resetRegisters_errSticky s

/-- The bit of an error in `ERR_STICKY`, as a power of two of its code (R263). -/
theorem errBit_eq (e : Err) : errBit e = BitVec.ofNat 8 (2 ^ respCode (.err e)) := by cases e <;> rfl

/-- Settles O8: a command ends with `OK` after its effect, or raises an error on the state before it. -/
theorem errorsArePreciseAndRecorded : Obligations.ErrorsArePreciseAndRecorded := by
  intro i s t ht
  rcases exec_cases i s with hs | ⟨e, -, hs⟩
  · obtain rfl := Host.Outcome.next.inj (hs.symm.trans ht)
    exact .inl ⟨respondOk_lastResp _, fun hclrerr hreset => effect_errSticky hclrerr hreset s,
      fun hclears => effect_errSticky_of_clears hclears s⟩
  · obtain rfl := Host.Outcome.next.inj (hs.symm.trans ht)
    exact .inr ⟨e, by rw [raise, errBit_eq]⟩

/-- The response of a command is the error its checks report, or `OK` where every check passes (R263, R264). -/
theorem answer_lastResp (i : Instr) (s : State) : (answer i s).lastResp = (firstError i s).elim .ok .err := by
  cases hi : firstError i s with
  | some e => rw [answer_of_some hi, raise_lastResp, Option.elim_some]
  | none => rw [answer_of_none hi, respondOk_lastResp, Option.elim_none]

/-- A command whose checks report an error responds with it. -/
theorem exec_reports {i : Instr} {s : State} {e : Err} (h : firstError i s = some e) :
    ∃ t, exec i s = .next t ∧ t.lastResp = .err e :=
  ⟨answer i s, exec_eq_answer i s, by rw [answer_lastResp, h, Option.elim_some]⟩

/-- The standard build after reset with a full buffer, so that no append has room. -/
def fullState : State := { State.reset with bitlen := Build.standard.capBits }

/-- Settles O9: by `exec_cases` for the commands, operands that fail each check for the errors listed, and
`step_command_of_illegal` for a word that is no command. -/
theorem eachCommandRaisesOnlyItsErrors : Obligations.EachCommandRaisesOnlyItsErrors := by
  refine ⟨fun i s => ?_, ?_, ⟨0, fullState, exec_reports (by decide)⟩, ?_, fun s w rest why hpending hdecode => ?_⟩
  · rcases exec_cases i s with hs | ⟨e, he, hs⟩
    · exact ⟨_, hs, .inl (respondOk_lastResp _)⟩
    · exact ⟨_, hs, .inr ⟨e, he, raise_lastResp e s⟩⟩
  · refine List.forall_mem_cons.mpr ⟨?_, List.forall_mem_cons.mpr ⟨?_, List.forall_mem_singleton.mpr ?_⟩⟩
    · exact ⟨0, 0, State.reset, exec_reports (by decide)⟩
    · exact ⟨1, 2, State.reset, exec_reports (by decide)⟩
    · exact ⟨1, 0, fullState, exec_reports (by decide)⟩
  · refine List.forall_mem_cons.mpr ⟨?_, List.forall_mem_singleton.mpr ?_⟩
    · exact ⟨5, 0, 0, 0, 0, State.reset, exec_reports (by decide)⟩
    · exact ⟨0, 0, 4, 0, 0, State.reset, exec_reports (by decide)⟩
  · exact ⟨_, step_command_of_illegal hpending hdecode, raise_lastResp _ _⟩

/-- Settles O10: a word with a reserved bit set matches no row of the table; the response of a command is the outcome of
`firstError`, whose checks stand in R264's order. -/
theorem firstFailingCheckIsReported : Obligations.FirstFailingCheckIsReported := by
  refine ⟨fun s w rest hpending hreserved => ?_, fun width value s => ⟨_, exec_eq_answer _ s, ?_⟩,
    fun value s => ⟨_, exec_eq_answer _ s, ?_⟩, fun target action bank masklen pointer s => ⟨_, exec_eq_answer _ s, ?_⟩⟩
  · obtain ⟨r, hr, hop, hmatch⟩ := hreserved
    obtain ⟨why, hdecode⟩ := illegal_of_no_row (no_row_of_reservedBit hr hop hmatch)
    exact ⟨_, step_command_of_illegal hpending hdecode, raise_lastResp _ _⟩
  all_goals
    simp only [answer_lastResp, firstError, apply_ite (Option.elim · Resp.ok Resp.err)]
    rfl

end Sys2Proof.Machine
end
